-- ==== Sys2Proof/Word.lean ====
section
/-!
DEFINITION. The plain words and names of the shift-out sequencer: bytes, the three formats of word
(30_encoding.md R80), the four lines (20_memory.md R53), the two levels a pin operation can ask for,
the three levels a wire can have (10_state.md R30), the 18 phases (10_state.md R23).
-/

namespace Sys2Proof

/-- One frame element, `BYTE_BITS` = 8 (R7, R50). Also the operand of a wait (R89). -/
abbrev Byte := BitVec 8

/-- A format C word: the one bit `variant` (R81). The frame is passed beside it. -/
abbrev CommandWord := BitVec 1

/-- A format M word: `kind[11:10]`, `line[9:8]`, `arg[7:0]` (R85). -/
abbrev MicroWord := BitVec 12

/-- A format P word: a phase code (R92). -/
abbrev PhaseWord := BitVec 5

/-- An error value of the type `E`, by its number in `E` (R7, R201; log 2). -/
abbrev ErrCode := Nat

/-- Which of the two commands started a call (R26, R82). -/
inductive Variant where
  | shiftOut
  | infallible
  deriving DecidableEq, Repr, Inhabited

/-- The four output lines, in the order of their numbers 0 to 3 (R53). -/
inductive Line where
  | clr
  | shift
  | latch
  | data
  deriving DecidableEq, Repr

/-- The level a pin operation asks a line to drive (R130). -/
inductive Level where
  | lo
  | hi
  deriving DecidableEq, Repr

/-- The level of a wire as the attached chip sees it (R30). `unknown` is a third level and is never
resolved to one of the other two (R41, R132, D11). -/
inductive WireLevel where
  | lo
  | hi
  | unknown
  deriving DecidableEq, Repr

/-- The phases: `IDLE` and one for each micro-operation of the algorithm's text (R23). A closed
enumeration, so that a reserved phase code cannot be written (R96). -/
inductive Phase where
  | idle
  | s1a | s1b
  | s2a | s2b | s2c | s2d | s2e | s2f
  | s3a | s3b | s3c1 | s3c2 | s3d | s3e
  | s4a | s4b | s4c
  deriving DecidableEq, Repr

/-- A line's answer to one pin operation: `ok` or `err(e)` (R131). -/
inductive Answer where
  | ok
  | err (e : ErrCode)
  deriving DecidableEq, Repr, Inhabited

/-- The three kinds of word (R80). Which kind a word is, is told by the port it arrives on and not
by its bits (R98). -/
inductive Word where
  /-- A command and the frame beside it (R81). -/
  | command (w : CommandWord) (frame : List Byte)
  /-- A micro-operation (R85). -/
  | micro (w : MicroWord)
  /-- A phase code (R92). -/
  | phase (w : PhaseWord)
  deriving DecidableEq, Repr

end Sys2Proof
end

