-- ==== Sys2Proof/Config.lean ====
section
/-!
DEFINITION. The parameters the spec leaves open (00_scope.md R7: `E`, `CHIP_DEPTH`, `CLEAR_MODE`) and
the free values: opaque constants with no body, of which no proof can see a value (10_state.md R41,
93_implementation_defined.md "any value").
-/

namespace Sys2Proof

/-- The error type `E` of the four lines, up to a numbering of its values: `finite n` has the values
0 to n-1, `countable` has one for every natural number (R7, R201, D18; log 2). -/
inductive ErrType where
  | finite (n : Nat)
  | countable
  deriving DecidableEq, Repr, Inhabited

/-- `E` has no member, so that no line can ever answer `err` (R112, R131). -/
def ErrType.isEmpty : ErrType → Bool
  | .finite n => n == 0
  | .countable => false

/-- `e` is a value of `E`. -/
def ErrType.contains : ErrType → ErrCode → Bool
  | .finite n, e => decide (e < n)
  | .countable, _ => true

/-- `CLEAR_MODE`: whether the chip clears on the clear level or on a shift-clock edge under clear
(R7, R234, C5). -/
inductive ClearMode where
  | level
  | edge
  deriving DecidableEq, Repr, Inhabited

/-- The open parameters, in one place (R7, end of 92_eei_decisions.md). -/
structure Platform where
  /-- `E`, the error type shared by the four lines. -/
  errs : ErrType
  /-- `CHIP_DEPTH`, the stages of the attached chip. -/
  chipDepth : Nat
  /-- `CLEAR_MODE`, how the attached chip clears. -/
  clearMode : ClearMode
  deriving DecidableEq, Repr, Inhabited

/-- The platform the machine is built on: open, so opaque (DESIGN CHOICE, safe; log 1). -/
opaque Config.platform : Platform

/-- FREE VALUE: what the lines answer to the pin operation that is the n-th since reset, where no
test harness has fixed the answer (R131; log 3). -/
opaque Config.lineAnswer : Nat → Answer

/-- FREE VALUE: stage m of the n-th drawn chip register (R200, R204, R237, R40; log 5). -/
opaque Config.freeBit : Nat → Nat → Bool

/-- FREE VALUE: what the `variant` register holds when it is unspecified (R35, R40; log 5). -/
opaque Config.freeVariant : Nat → Variant

/-- FREE VALUE: what the `data` register holds when it is unspecified (R35, R40; log 5). -/
opaque Config.freeFrame : Nat → List Byte

/-- Draw number k of "any `CHIP_DEPTH`-bit value" (R200): every stage is free. -/
def freeStages (depth k : Nat) : List Bool :=
  (List.range depth).map (Config.freeBit k)

end Sys2Proof
end

