-- ==== Sys2Proof/Syntax.lean ====
section
/-!
DEFINITION. The instructions: one constructor for each of the 29 rows of spec/opcode_table.json, two
commands (format C), nine micro-operations (format M), 18 phases (format P).
-/

namespace Sys2Proof

/-- One constructor per row of the opcode table, in the table's order. -/
inductive Instr where
  /-- `SHIFT_OUT data` (R111). -/
  | shiftOut (data : List Byte)
  /-- `SHIFT_OUT_INFALLIBLE data` (R112). -/
  | shiftOutInfallible (data : List Byte)
  /-- `CLR_LO` (R133). -/
  | clrLo
  /-- `CLR_HI` (R134). -/
  | clrHi
  /-- `SHIFT_LO` (R135). -/
  | shiftLo
  /-- `SHIFT_HI` (R136). -/
  | shiftHi
  /-- `LATCH_LO` (R137). -/
  | latchLo
  /-- `LATCH_HI` (R138). -/
  | latchHi
  /-- `DATA_LO` (R140). -/
  | dataLo
  /-- `DATA_HI` (R141). -/
  | dataHi
  /-- `WAIT n` (R139). -/
  | wait (n : Byte)
  /-- Phase `IDLE` (R151). -/
  | idle
  /-- Phase `S1A` (R152). -/
  | s1a
  /-- Phase `S1B` (R153). -/
  | s1b
  /-- Phase `S2A` (R154). -/
  | s2a
  /-- Phase `S2B` (R155). -/
  | s2b
  /-- Phase `S2C` (R156). -/
  | s2c
  /-- Phase `S2D` (R157). -/
  | s2d
  /-- Phase `S2E` (R158). -/
  | s2e
  /-- Phase `S2F` (R159). -/
  | s2f
  /-- Phase `S3A` (R160). -/
  | s3a
  /-- Phase `S3B` (R161). -/
  | s3b
  /-- Phase `S3C1` (R162). -/
  | s3c1
  /-- Phase `S3C2` (R163). -/
  | s3c2
  /-- Phase `S3D` (R164). -/
  | s3d
  /-- Phase `S3E` (R165). -/
  | s3e
  /-- Phase `S4A` (R166). -/
  | s4a
  /-- Phase `S4B` (R167). -/
  | s4b
  /-- Phase `S4C` (R168). -/
  | s4c
  deriving DecidableEq, Repr

end Sys2Proof
end

