-- ==== Sys2Proof/WellFormed.lean ====
section
/-!
DEFINITION. The static checks of the spec. The operand types of `Instr` admit exactly the operands
the spec gives (a wait's `n` is 8 bits, a frame is any list of bytes), so an instruction by itself is
always well formed; what the spec checks statically is against the error type `E`: which command a
platform offers (40_commands.md R112), which answer a line can give (41_micro_ops.md R131).
-/

namespace Sys2Proof

/-- The platform offers the instruction: `SHIFT_OUT_INFALLIBLE` does not exist where `E` has a member
(R112, R215, D17); every other instruction always does. -/
def Instr.wellFormed (errs : ErrType) : Instr → Bool
  | .shiftOutInfallible _ => errs.isEmpty
  | _ => true

/-- The answers the four lines can give: `ok`, and `err(e)` for every `e` in `E` (R131). -/
def Answer.wellFormed (errs : ErrType) : Answer → Bool
  | .ok => true
  | .err e => errs.contains e

end Sys2Proof
end

