-- ==== Sys2Proof/Decode.lean ====
section
/-!
DEFINITION. Decoding and encoding of the three formats (30_encoding.md R80 to R98). Reserved words are
refused by name and never read as a neighbour (R94, R96). The byte layout at the end is the model's
own (log 8): the spec gives none.
-/

namespace Sys2Proof

/-- Why a word is no instruction. -/
inductive DecodeError where
  /-- A micro-operation word with `kind` 0b10 or 0b11 (R94). -/
  | reservedKind
  /-- A pin-operation word with `arg` other than 0x00 or 0x01 (R94). -/
  | reservedArg
  /-- A wait word with `line` other than 0b00 (R94). -/
  | reservedLine
  /-- A phase code 18 to 31 (R96). -/
  | reservedPhase
  /-- Bytes with a bit set outside the word they carry (the model's byte layout, log 8). -/
  | strayBits
  /-- The wrong number of bytes for the format (R98; the model's byte layout, log 8). -/
  | badLength
  deriving DecidableEq, Repr

/-- The line a `line` field names (R86). All four values are used. -/
def Line.ofCode (c : BitVec 2) : Line :=
  if c = 0b00#2 then .clr
  else if c = 0b01#2 then .shift
  else if c = 0b10#2 then .latch
  else .data

/-- The micro-operation that drives line `l` to level `v`. -/
def Instr.ofPin : Line → Level → Instr
  | .clr, .lo => .clrLo
  | .clr, .hi => .clrHi
  | .shift, .lo => .shiftLo
  | .shift, .hi => .shiftHi
  | .latch, .lo => .latchLo
  | .latch, .hi => .latchHi
  | .data, .lo => .dataLo
  | .data, .hi => .dataHi

/-- Format C (R81, R82): both values of `variant` are used. -/
def decodeCommand (w : CommandWord) (frame : List Byte) : Instr :=
  if w = 0#1 then .shiftOut frame else .shiftOutInfallible frame

/-- Format M (R85, R87, R89, R90, R94). -/
def decodeMicro (w : MicroWord) : Except DecodeError Instr :=
  let kind : BitVec 2 := w.extractLsb' 10 2
  let line : BitVec 2 := w.extractLsb' 8 2
  let arg : BitVec 8 := w.extractLsb' 0 8
  if kind = 0b00#2 then
    if arg = 0x00#8 then .ok (Instr.ofPin (Line.ofCode line) .lo)
    else if arg = 0x01#8 then .ok (Instr.ofPin (Line.ofCode line) .hi)
    else .error .reservedArg
  else if kind = 0b01#2 then
    if line = 0b00#2 then .ok (.wait arg) else .error .reservedLine
  else .error .reservedKind

/-- The 18 phases in the order of their codes (R92). -/
def Phase.inOrder : List Phase :=
  [.idle, .s1a, .s1b, .s2a, .s2b, .s2c, .s2d, .s2e, .s2f,
   .s3a, .s3b, .s3c1, .s3c2, .s3d, .s3e, .s4a, .s4b, .s4c]

/-- The phase a code names; codes 18 to 31 name none (R92, R96). -/
def Phase.ofCode (w : PhaseWord) : Except DecodeError Phase :=
  match Phase.inOrder[w.toNat]? with
  | some p => .ok p
  | none => .error .reservedPhase

/-- The code of a phase (R23, R92). -/
def Phase.code : Phase → PhaseWord
  | .idle => 0#5
  | .s1a => 1#5
  | .s1b => 2#5
  | .s2a => 3#5
  | .s2b => 4#5
  | .s2c => 5#5
  | .s2d => 6#5
  | .s2e => 7#5
  | .s2f => 8#5
  | .s3a => 9#5
  | .s3b => 10#5
  | .s3c1 => 11#5
  | .s3c2 => 12#5
  | .s3d => 13#5
  | .s3e => 14#5
  | .s4a => 15#5
  | .s4b => 16#5
  | .s4c => 17#5

/-- The instruction that a phase is (one row of the table per phase). -/
def Phase.toInstr : Phase → Instr
  | .idle => .idle
  | .s1a => .s1a
  | .s1b => .s1b
  | .s2a => .s2a
  | .s2b => .s2b
  | .s2c => .s2c
  | .s2d => .s2d
  | .s2e => .s2e
  | .s2f => .s2f
  | .s3a => .s3a
  | .s3b => .s3b
  | .s3c1 => .s3c1
  | .s3c2 => .s3c2
  | .s3d => .s3d
  | .s3e => .s3e
  | .s4a => .s4a
  | .s4b => .s4b
  | .s4c => .s4c

/-- The instruction a word stands for, or the name of the reason why it stands for none. -/
def decode : Word → Except DecodeError Instr
  | .command w frame => .ok (decodeCommand w frame)
  | .micro w => decodeMicro w
  | .phase w => (Phase.ofCode w).map Phase.toInstr

/-- The word of an instruction, from the tables of R82, R87 and R92. -/
def encode : Instr → Word
  | .shiftOut data => .command 0#1 data
  | .shiftOutInfallible data => .command 1#1 data
  | .clrLo => .micro 0x000#12
  | .clrHi => .micro 0x001#12
  | .shiftLo => .micro 0x100#12
  | .shiftHi => .micro 0x101#12
  | .latchLo => .micro 0x200#12
  | .latchHi => .micro 0x201#12
  | .dataLo => .micro 0x300#12
  | .dataHi => .micro 0x301#12
  | .wait n => .micro (0x4#4 ++ n)
  | .idle => .phase 0#5
  | .s1a => .phase 1#5
  | .s1b => .phase 2#5
  | .s2a => .phase 3#5
  | .s2b => .phase 4#5
  | .s2c => .phase 5#5
  | .s2d => .phase 6#5
  | .s2e => .phase 7#5
  | .s2f => .phase 8#5
  | .s3a => .phase 9#5
  | .s3b => .phase 10#5
  | .s3c1 => .phase 11#5
  | .s3c2 => .phase 12#5
  | .s3d => .phase 13#5
  | .s3e => .phase 14#5
  | .s4a => .phase 15#5
  | .s4b => .phase 16#5
  | .s4c => .phase 17#5

/-- The port a word arrives on, which alone tells its format (R98). -/
inductive Port where
  | command
  | micro
  | phase
  deriving DecidableEq, Repr

/-- A word laid out in bytes, least significant byte first: one byte for format C with the frame's
bytes behind it, two for format M, one for format P (DESIGN CHOICE, log 8). -/
def Word.ofBytes : Port → List Byte → Except DecodeError Word
  | .command, b :: frame =>
    if b.toNat < 2 then .ok (.command (b.setWidth 1) frame) else .error .strayBits
  | .micro, [b0, b1] =>
    if b1.toNat < 16 then .ok (.micro ((b1 ++ b0).setWidth 12)) else .error .strayBits
  | .phase, [b] =>
    if b.toNat < 32 then .ok (.phase (b.setWidth 5)) else .error .strayBits
  | _, _ => .error .badLength

/-- The instruction that the bytes on a port stand for: total on any bytes. -/
def decodeBytes (p : Port) (bs : List Byte) : Except DecodeError Instr :=
  match Word.ofBytes p bs with
  | .ok w => decode w
  | .error e => .error e

/-- The port of a row of the opcode table, from the row's width: 1 bit is format C, 5 bits format P,
12 bits format M. A width rounded up to 8 bits stands for both C and P, whose words 0 and 1 then
coincide: those two are read as the commands (DESIGN CHOICE, log 8). -/
def tablePort (nbits w : Nat) : Port :=
  if nbits < 5 then .command
  else if nbits < 8 then .phase
  else if nbits = 8 then (if w < 2 then .command else .phase)
  else .micro

/-- The bytes of a table word, least significant first, as many as its format has (no frame). -/
def tableBytes (nbits w : Nat) : List Byte :=
  match tablePort nbits w with
  | .micro => [BitVec.ofNat 8 w, BitVec.ofNat 8 (w / 256)]
  | _ => [BitVec.ofNat 8 w]

/-- The word of a table row whose bits are `w`. -/
def tableWord (nbits w : Nat) : Except DecodeError Word :=
  if w < 65536 then Word.ofBytes (tablePort nbits w) (tableBytes nbits w) else .error .strayBits

/-- The host's question: what the decoder reads from an instruction whose bits are `w`, numbered as
spec/opcode_table.json numbers them. -/
def decodeTableWord (nbits w : Nat) : Option Instr :=
  match tableWord nbits w with
  | .ok word => (decode word).toOption
  | .error _ => none

end Sys2Proof
end

