-- ==== Sys2Proof/Machine/State.lean ====
section
/-!
DEFINITION. The state of the machine (10_state.md R21 to R41), as plain data, its reset value (R40), and
the reasons a step can stop.
-/

namespace Sys2Proof.Machine

/-- The levels of the four wires, `wire[0]` to `wire[3]` (R30). State of the environment. -/
structure Wires where
  clr : WireLevel
  shift : WireLevel
  latch : WireLevel
  data : WireLevel
  deriving DecidableEq, Repr

/-- The execution point `xp = (phase, byte_idx, bit_idx)` (R22 to R25). `byte_idx` is unbounded (D14). -/
structure ExecPoint where
  phase : Phase
  byteIdx : Nat
  bitIdx : BitVec 3
  deriving DecidableEq, Repr

/-- `(IDLE, 0, 0)`, where every call ends (R36). -/
def ExecPoint.rest : ExecPoint := ⟨.idle, 0, 0#3⟩

/-- One event of the trace: a micro-operation with its response (R33). A wait's only response is `done`. -/
inductive Event where
  | pin (l : Line) (v : Level) (a : Answer)
  | wait (n : Byte)
  deriving DecidableEq, Repr

/-- What the command port carries back at the end of a call (R83, R114). -/
inductive Response where
  /-- `Ok`. -/
  | ok
  /-- `Err(e)`, the error value passed on unchanged (R201). -/
  | err (e : ErrCode)
  /-- The end of a `SHIFT_OUT_INFALLIBLE` call: no response value, "nothing but completion" (R114). -/
  | completed
  deriving DecidableEq, Repr

/-- A move of the host, made when the block is idle (R245; log 4). -/
inductive HostMove where
  /-- Rows 1 to 3: a command word and its frame on the command port. -/
  | command (w : CommandWord) (frame : List Byte)
  /-- Row 5: the host takes the response. -/
  | receive
  /-- Row 6: the lines are driven between calls; the wires are `w` afterwards and the chip anything. -/
  | drive (w : Wires)
  /-- Row 9: the delay provider is used between calls. -/
  | useDelay (n : Byte)
  /-- Row 13: `reset`, only while idle (R40). -/
  | reset
  deriving DecidableEq, Repr

/-- The state. The fields from `xp` to `response` are the spec's (R21, R40); `cfg` holds the parameters
of R7, which no step writes (log 1); the last four are the model's own (log 3, log 4, log 5). -/
structure State where
  /-- The open parameters `E`, `CHIP_DEPTH`, `CLEAR_MODE` (R7; log 1). -/
  cfg : Platform
  /-- The execution point (R22). -/
  xp : ExecPoint
  /-- The operand `variant` of the call in progress; unspecified while idle (R26, R35). -/
  variant : Variant
  /-- The operand `data` of the call in progress, the frame; unspecified while idle (R26, R35, R50). -/
  data : List Byte
  /-- The four wire levels (R30). -/
  wires : Wires
  /-- The chip's shift register, stage 0 first, the stage next to the serial input (R230). -/
  sr : List Bool
  /-- The chip's output register, output 0 first (R230). -/
  out : List Bool
  /-- The trace of the current call, oldest event first (R33). -/
  trace : List Event
  /-- The response on the command port that the host has not taken yet (R40, R114; log 10). -/
  response : Option Response
  /-- The host's coming moves, read at `IDLE` only (the model's own; log 4). -/
  host : List HostMove
  /-- The answers a harness has fixed for the coming pin operations (the model's own; R131; log 3). -/
  answers : List Answer
  /-- The number of pin operations answered since reset (the model's own; log 3). -/
  asked : Nat
  /-- The number of free values drawn since reset (the model's own; log 5). -/
  draws : Nat
  deriving DecidableEq, Repr

/-- Why the machine stops. `PinFault(e)` is no stop: it is a defined outcome (R210) and a next state. -/
inductive Fault where
  /-- `FrameRead(i)` with `i` outside the frame, for which R52 defines nothing. Raised by phase `S3A`
  in states that no legal execution point has (R169). Safe: the machine stops where the spec is silent. -/
  | frameIndexOutside
  deriving DecidableEq, Repr

/-- Why an instruction is refused (R210). -/
inductive Refusal where
  /-- An arm of `exec` that has no meaning yet. Raised by no arm now. Safe. -/
  | notModelled (mnemonic : String)
  /-- A command while a call runs (R116, U13). Raised by the two commands. Safe. -/
  | busy
  /-- `SHIFT_OUT_INFALLIBLE` where `E` has a member (R112, R211, U12). Raised by that command. Safe. -/
  | infallibleNotOffered
  /-- A word that is reserved, with the name of what is reserved in it (R94, U4). Raised by `step` for a
  word that the decoder refuses; no state fetches one, since no phase has a reserved code (R96) and format C
  has no reserved word (R97). Safe. -/
  | reservedWord (why : DecodeError)
  deriving DecidableEq, Repr

/-- The machine right after reset (R40). What R40 leaves unspecified holds a free value that nothing can
be proved of (R41; log 6); the platform is open (log 1). -/
def State.reset : State where
  cfg := Config.platform
  xp := .rest
  variant := Config.freeVariant 2
  data := Config.freeFrame 2
  wires := ⟨.unknown, .unknown, .unknown, .unknown⟩
  sr := freeStages Config.platform.chipDepth 0
  out := freeStages Config.platform.chipDepth 1
  trace := []
  response := none
  host := []
  answers := []
  asked := 0
  draws := 3

end Sys2Proof.Machine
end

