-- ==== Sys2Proof/Machine/Flags.lean ====
section
/-!
DEFINITION. The block has no flags (10_state.md R29). What is computed from state and tested: the derived
signal `busy` (R35), the kind of change a wire makes (60_exceptions.md R232), the status part of a
response (30_encoding.md R83).
-/

namespace Sys2Proof.Machine

/-- `busy = (xp.phase != 0)`, a derived signal (R35). -/
def State.busy (s : State) : Bool := decide (s.xp.phase ≠ .idle)

/-- What the chip may see when a clock line is driven to `new` from the level `old` (R232). -/
inductive ClockChange where
  /-- From `Lo` to `Hi`. -/
  | rising
  /-- From `Unknown` to `Hi`: maybe an edge (R237). -/
  | maybeRising
  /-- A falling edge, or no change: nothing. -/
  | none
  deriving DecidableEq, Repr

/-- The kind of change (R232). -/
def clockChange (old : WireLevel) (new : Level) : ClockChange :=
  match old, new with
  | .lo, .hi => .rising
  | .unknown, .hi => .maybeRising
  | _, _ => .none

/-- The value a response has on the command port: a status bit, 0 for `Ok` and 1 for `Err`, and after
a 1 the error value; a completion has no value (R83). -/
def Response.value : Response → Option (BitVec 1 × Option ErrCode)
  | .ok => some (0#1, none)
  | .err e => some (1#1, some e)
  | .completed => none

end Sys2Proof.Machine
end

