-- ==== Sys2Proof/Machine/Operands.lean ====
section
/-!
DEFINITION. The operands: the frame read (20_memory.md R52), the bit it gives (30_encoding.md R91), the
wait's operand (R8, R89), and all the arithmetic of the block (42_sequence.md R170), gathered in the
next-phase function (R174).
-/

namespace Sys2Proof.Machine

/-- `DELAY_UNIT`, the operand of every wait of the sequence (R7, R8). -/
def delayUnit : Byte := 1#8

/-- `FrameRead(i)`: byte `i` of the frame, defined inside the frame only (R52). -/
def frameRead (data : List Byte) (i : Nat) : Option Byte := data[i]?

/-- `b[j]`, bit `j` of a byte counted from the least significant (R91, R170). -/
def bitOf (b : Byte) (j : BitVec 3) : Bool := b.getLsbD j.toNat

/-- The level that stands for a bit on `DATA`: high for 1, low for 0 (R91). -/
def levelOfBit (b : Bool) : Level := if b then .hi else .lo

/-- The level a wire has after a pin operation answered `ok` (R130). -/
def Level.onWire : Level → WireLevel
  | .lo => .lo
  | .hi => .hi

/-- Where `S2F` leads (R159): past step 3 when the frame is empty. -/
def afterClear (len : Nat) : ExecPoint :=
  if len = 0 then ⟨.s4a, 0, 0#3⟩ else ⟨.s3a, 0, 0#3⟩

/-- Where `S3E` leads (R165): the next bit, the next byte, or step 4. `j + 1` is taken for `j < 7`
only, so it never wraps (R170). -/
def afterBit (len i : Nat) (j : BitVec 3) : ExecPoint :=
  if j < 7#3 then ⟨.s3a, i, j + 1#3⟩
  else if i + 1 < len then ⟨.s3a, i + 1, 0#3⟩
  else ⟨.s4a, 0, 0#3⟩

/-- The next-phase function, applied when the phase's micro-operation is answered `ok` or `done`
(R174). From `IDLE` only a command leads on (R28). -/
def nextPoint (len : Nat) (x : ExecPoint) : ExecPoint :=
  match x.phase with
  | .idle => x
  | .s1a => ⟨.s1b, 0, 0#3⟩
  | .s1b => ⟨.s2a, 0, 0#3⟩
  | .s2a => ⟨.s2b, 0, 0#3⟩
  | .s2b => ⟨.s2c, 0, 0#3⟩
  | .s2c => ⟨.s2d, 0, 0#3⟩
  | .s2d => ⟨.s2e, 0, 0#3⟩
  | .s2e => ⟨.s2f, 0, 0#3⟩
  | .s2f => afterClear len
  | .s3a => ⟨.s3b, x.byteIdx, x.bitIdx⟩
  | .s3b => ⟨.s3c1, x.byteIdx, x.bitIdx⟩
  | .s3c1 => ⟨.s3c2, x.byteIdx, x.bitIdx⟩
  | .s3c2 => ⟨.s3d, x.byteIdx, x.bitIdx⟩
  | .s3d => ⟨.s3e, x.byteIdx, x.bitIdx⟩
  | .s3e => afterBit len x.byteIdx x.bitIdx
  | .s4a => ⟨.s4b, 0, 0#3⟩
  | .s4b => ⟨.s4c, 0, 0#3⟩
  | .s4c => .rest

end Sys2Proof.Machine
end

