-- ==== Sys2Proof/Machine/Ops.lean ====
section
/-!
DEFINITION. The named operations on the state: wires, trace, execution point, free draws, a line's
answer, the response (40_commands.md R114) and the fault `PinFault(e)` (60_exceptions.md R200), which is
the block's one exception. It has no return (R209).
-/

namespace Sys2Proof.Machine

/-- `wire[l]` (R30). -/
def Wires.get (w : Wires) : Line → WireLevel
  | .clr => w.clr
  | .shift => w.shift
  | .latch => w.latch
  | .data => w.data

/-- `wire[l] <- v`; the other three wires keep their levels (R130, R132). -/
def Wires.set (w : Wires) (l : Line) (v : WireLevel) : Wires :=
  match l with
  | .clr => { w with clr := v }
  | .shift => { w with shift := v }
  | .latch => { w with latch := v }
  | .data => { w with data := v }

/-- `wire[l] <- v` in the state. -/
def State.setWire (s : State) (l : Line) (v : WireLevel) : State :=
  { s with wires := s.wires.set l v }

/-- `trace <- trace ++ [ev]` (R10, R33). -/
def State.record (s : State) (ev : Event) : State :=
  { s with trace := s.trace ++ [ev] }

/-- `xp <- x` (R10). -/
def State.goto (s : State) (x : ExecPoint) : State :=
  { s with xp := x }

/-- `sr <- draw any value`, `CHIP_DEPTH` bits (R237). -/
def State.anySr (s : State) : State :=
  { s with sr := freeStages s.cfg.chipDepth s.draws, draws := s.draws + 1 }

/-- `out <- draw any value`, `CHIP_DEPTH` bits (R200). -/
def State.anyOut (s : State) : State :=
  { s with out := freeStages s.cfg.chipDepth s.draws, draws := s.draws + 1 }

/-- Both chip registers hold any value (R200, R204, R245 row 6). -/
def State.anyChip (s : State) : State := s.anySr.anyOut

/-- The operands are dropped: `variant` and `data` are unspecified from here on (R35, R114). -/
def State.dropOperands (s : State) : State :=
  { s with
    variant := Config.freeVariant s.draws
    data := Config.freeFrame s.draws
    draws := s.draws + 1 }

/-- The answers the lines' error type allows: one that no line can give stands for `ok` (R131; log 3). -/
def Answer.admitted (errs : ErrType) (a : Answer) : Answer :=
  if a.wellFormed errs then a else .ok

/-- The answer the pin operation `k` operations ahead gets: the one a harness has fixed, else a free
draw (R131; log 3). -/
def State.answerAt (s : State) (k : Nat) : Answer :=
  Answer.admitted s.cfg.errs ((s.answers[k]?).getD (Config.lineAnswer (s.asked + k)))

/-- The answer the next pin operation gets (R131). -/
def State.answer (s : State) : Answer := s.answerAt 0

/-- The next answer has been given. -/
def State.takeAnswer (s : State) : State :=
  { s with answers := s.answers.tail, asked := s.asked + 1 }

/-- What goes on the command port at `respond r` (R114): nothing but completion in a call whose `variant`
is 1, else `r`. While idle `variant` is not read (R35), so a micro-operation executed there alone is answered
`r`, as M16 and M17 have it (DEDUCED, log 7). -/
def State.portResponse (s : State) (r : Response) : Response :=
  if s.busy then (match s.variant with | .shiftOut => r | .infallible => .completed) else r

/-- `respond r` (R114): the response on the command port; the block goes idle and drops the operands. -/
def State.respond (s : State) (r : Response) : State :=
  { s.dropOperands with response := some (s.portResponse r), xp := .rest }

/-- `raise PinFault(e)` (R200, R208), the one exception: the chip's registers become any value and the
call is answered `Err(e)`. The failed event and the `Unknown` wire are written before (R130). Nothing
is saved, and there is no handler and no return (R202, R209). -/
def State.pinFault (s : State) (e : ErrCode) : State := s.anyChip.respond (.err e)

/-- What an `ok` or `done` does to the execution point: `xp <- next(xp)` (R174), and at `S4C` the
call's response `Ok` with it (R168). -/
def State.advance (s : State) : State :=
  if s.xp.phase = .s4c then s.respond .ok else s.goto (nextPoint s.data.length s.xp)

/-- The start of a call (R111, R112). The response of the call before is off the port (log 10). -/
def State.startCall (s : State) (v : Variant) (frame : List Byte) : State :=
  { s with
    variant := v
    data := frame
    trace := []
    xp := ⟨.s1a, 0, 0#3⟩
    response := none }

/-- The event `reset`, which has a move only from `IDLE` (R40, R245 row 13): `xp` at rest, wires
`Unknown`, chip and operands unspecified, trace empty, no response. -/
def State.resetEvent (s : State) : State :=
  { s.anyChip.dropOperands with
    xp := .rest
    wires := ⟨.unknown, .unknown, .unknown, .unknown⟩
    trace := []
    response := none }

/-- The lines are driven between calls: the wires are `w` and the chip holds anything (R245 row 6, U15). -/
def State.driven (s : State) (w : Wires) : State := { s.anyChip with wires := w }

/-- The host takes the response (R245 row 5). -/
def State.received (s : State) : State := { s with response := none }

end Sys2Proof.Machine
end

