-- ==== Sys2Proof/Machine/Commands.lean ====
section
/-!
DEFINITION. The commands (40_commands.md): `SHIFT_OUT` and `SHIFT_OUT_INFALLIBLE`.
-/

namespace Sys2Proof.Machine

/-- `SHIFT_OUT data` (R111): admitted in `IDLE` only (R116); any frame, the empty one too (R118). -/
def execShiftOut (data : List Byte) (s : State) : Host.Outcome State Fault Refusal :=
  if s.busy then .refused .busy else .next (s.startCall .shiftOut data)

/-- `SHIFT_OUT_INFALLIBLE data` (R112): admitted in `IDLE` only, and only where `E` is empty; elsewhere
the command does not exist and starts nothing. -/
def execShiftOutInfallible (data : List Byte) (s : State) : Host.Outcome State Fault Refusal :=
  if s.busy then .refused .busy
  else if s.cfg.errs.isEmpty then .next (s.startCall .infallible data)
  else .refused .infallibleNotOffered

end Sys2Proof.Machine
end

