-- ==== Sys2Proof/Machine/Chip.lean ====
section
/-!
DEFINITION. The attached chip, the reference model of 60_exceptions.md R230 to R237: what a pin operation
answered `ok` does to the chip's registers.
-/

namespace Sys2Proof.Machine

/-- All zero, `CHIP_DEPTH` stages (R234). -/
def zeroStages (depth : Nat) : List Bool := List.replicate depth false

/-- The shift register after one shift of the bit `b` (R233): every stage takes the one before it, stage
0 takes `b`, the last stage's bit is lost. -/
def shiftIn (depth : Nat) (b : Bool) (sr : List Bool) : List Bool := (b :: sr).take depth

/-- `sr <- all zero` (R234). -/
def State.clearSr (s : State) : State := { s with sr := zeroStages s.cfg.chipDepth }

/-- The shift of R233 with the level of `DATA`; an `Unknown` level shifts in a free bit (R237). -/
def State.shiftData (s : State) : State :=
  match s.wires.data with
  | .hi => { s with sr := shiftIn s.cfg.chipDepth true s.sr }
  | .lo => { s with sr := shiftIn s.cfg.chipDepth false s.sr }
  | .unknown =>
    { s with
      sr := shiftIn s.cfg.chipDepth (Config.freeBit s.draws 0) s.sr
      draws := s.draws + 1 }

/-- A rising edge of the shift clock (R233, R234 part b, R237): the clear line decides. -/
def State.shiftRise (s : State) : State :=
  match s.wires.clr with
  | .hi => s.shiftData
  | .lo => s.clearSr
  | .unknown => s.anySr

/-- A rising edge of the latch clock: `out <- sr` (R235). -/
def State.latchRise (s : State) : State := { s with out := s.sr }

/-- Maybe a rising edge of the latch clock: `out <- draw {out, sr}` (R237). -/
def State.latchMaybe (s : State) : State :=
  { s with
    out := if Config.freeBit s.draws 0 then s.sr else s.out
    draws := s.draws + 1 }

/-- The clear line driven to `new` (R234 part a): in `level` mode a low level clears at once. -/
def State.clearDriven (s : State) (new : Level) : State :=
  match new, s.cfg.clearMode with
  | .lo, .level => s.clearSr
  | _, _ => s

/-- `chip_edge(l, old, new)` (R232). The wire already has its new level. -/
def State.chipEdge (s : State) (l : Line) (old : WireLevel) (new : Level) : State :=
  match l with
  | .clr => s.clearDriven new
  | .shift =>
    match clockChange old new with
    | .rising => s.shiftRise
    | .maybeRising => s.anySr
    | .none => s
  | .latch =>
    match clockChange old new with
    | .rising => s.latchRise
    | .maybeRising => s.latchMaybe
    | .none => s
  | .data => s

end Sys2Proof.Machine
end

