-- ==== Sys2Proof/Machine/Pin.lean ====
section
/-!
DEFINITION. The two shared forms of every micro-operation: `Pin(l, v)` (41_micro_ops.md R130 to R132) and
`Wait(n)` (R139). Their last argument is what the answer `ok` or `done` leads on to: `advance` for a
micro-operation, the rule's own next point for a phase.
-/

namespace Sys2Proof.Machine

/-- `Pin(l, v)` up to the `ok`: the wire takes the level, the event is recorded, the chip sees the
change (R130). -/
def State.pinDone (s : State) (l : Line) (v : Level) : State :=
  ((s.takeAnswer.setWire l (Level.onWire v)).record (.pin l v .ok)).chipEdge l (s.wires.get l) v

/-- `Pin(l, v)` answered `err(e)`: the wire is `Unknown`, the event is recorded, the fault is raised
(R130, R132, R200). -/
def State.pinFailed (s : State) (l : Line) (v : Level) (e : ErrCode) : State :=
  ((s.takeAnswer.setWire l .unknown).record (.pin l v (.err e))).pinFault e

/-- `Pin(l, v)` (R130), whatever level the wire has (R142). -/
def State.pin (s : State) (l : Line) (v : Level) (andThen : State → State) : State :=
  match s.answer with
  | .ok => andThen (s.pinDone l v)
  | .err e => s.pinFailed l v e

/-- `Wait(n)` (R139): one event, no other effect, always answered `done` (R143). -/
def State.wait (s : State) (n : Byte) (andThen : State → State) : State :=
  andThen (s.record (.wait n))

end Sys2Proof.Machine
end

