-- ==== Sys2Proof/Machine/MicroOps.lean ====
section
/-!
DEFINITION. The nine micro-operations (41_micro_ops.md), each at the state's own execution point, which it
moves by the next-phase function (R130, R139, R174).
-/

namespace Sys2Proof.Machine

/-- `CLR_LO` (R133): asserts the clear line, which is active low. -/
def execClrLo (s : State) : Host.Outcome State Fault Refusal :=
  .next (s.pin .clr .lo State.advance)

/-- `CLR_HI` (R134): de-asserts the clear line. -/
def execClrHi (s : State) : Host.Outcome State Fault Refusal :=
  .next (s.pin .clr .hi State.advance)

/-- `SHIFT_LO` (R135): a falling edge, which does nothing to the chip. -/
def execShiftLo (s : State) : Host.Outcome State Fault Refusal :=
  .next (s.pin .shift .lo State.advance)

/-- `SHIFT_HI` (R136): the edge that shifts a bit in, or clears. -/
def execShiftHi (s : State) : Host.Outcome State Fault Refusal :=
  .next (s.pin .shift .hi State.advance)

/-- `LATCH_LO` (R137): a falling edge, which does nothing to the chip. -/
def execLatchLo (s : State) : Host.Outcome State Fault Refusal :=
  .next (s.pin .latch .lo State.advance)

/-- `LATCH_HI` (R138): the edge that copies the shift register to the outputs. -/
def execLatchHi (s : State) : Host.Outcome State Fault Refusal :=
  .next (s.pin .latch .hi State.advance)

/-- `DATA_LO` (R140): a 0 bit, or the trailing low of step 3e. -/
def execDataLo (s : State) : Host.Outcome State Fault Refusal :=
  .next (s.pin .data .lo State.advance)

/-- `DATA_HI` (R141): a 1 bit. -/
def execDataHi (s : State) : Host.Outcome State Fault Refusal :=
  .next (s.pin .data .hi State.advance)

/-- `WAIT n` (R139), for any `n`: `WAIT 0` is a wait like any other (U7). -/
def execWait (n : Byte) (s : State) : Host.Outcome State Fault Refusal :=
  .next (s.wait n State.advance)

end Sys2Proof.Machine
end

