-- ==== Sys2Proof/Machine/Phases.lean ====
section
/-!
DEFINITION. The 18 phases (42_sequence.md R151 to R168), each the micro-operation it issues and the execution
point its rule names next. A pin operation answered `err(e)` ends the call in every one of them (R177).
-/

namespace Sys2Proof.Machine

/-- `IDLE` (R151): no micro-operation, nothing on any port; only a command leads on. -/
def execIdle (s : State) : Host.Outcome State Fault Refusal :=
  .next s

/-- `S1A` (R152), step 1: the shift clock low. -/
def execS1A (s : State) : Host.Outcome State Fault Refusal :=
  .next (s.pin .shift .lo (·.goto ⟨.s1b, 0, 0#3⟩))

/-- `S1B` (R153), step 1: the latch clock low; no wait follows. -/
def execS1B (s : State) : Host.Outcome State Fault Refusal :=
  .next (s.pin .latch .lo (·.goto ⟨.s2a, 0, 0#3⟩))

/-- `S2A` (R154), step 2: clear asserted. -/
def execS2A (s : State) : Host.Outcome State Fault Refusal :=
  .next (s.pin .clr .lo (·.goto ⟨.s2b, 0, 0#3⟩))

/-- `S2B` (R155), step 2: the shift clock high under clear; the chip's shift register is zero after it. -/
def execS2B (s : State) : Host.Outcome State Fault Refusal :=
  .next (s.pin .shift .hi (·.goto ⟨.s2c, 0, 0#3⟩))

/-- `S2C` (R156), step 2: the first wait of a call. -/
def execS2C (s : State) : Host.Outcome State Fault Refusal :=
  .next (s.wait delayUnit (·.goto ⟨.s2d, 0, 0#3⟩))

/-- `S2D` (R157), step 2: the shift clock low again. -/
def execS2D (s : State) : Host.Outcome State Fault Refusal :=
  .next (s.pin .shift .lo (·.goto ⟨.s2e, 0, 0#3⟩))

/-- `S2E` (R158), step 2: clear released, with the shift clock low. -/
def execS2E (s : State) : Host.Outcome State Fault Refusal :=
  .next (s.pin .clr .hi (·.goto ⟨.s2f, 0, 0#3⟩))

/-- `S2F` (R159), step 2: the second wait; the empty frame goes straight to step 4. -/
def execS2F (s : State) : Host.Outcome State Fault Refusal :=
  .next (s.wait delayUnit (fun t => t.goto (afterClear t.data.length)))

/-- `S3A` (R160), step 3a: the frame's bit on `DATA`. The one phase whose micro-operation depends on
data. Outside the frame there is no byte to read (R52, R169; log 9). -/
def execS3A (s : State) : Host.Outcome State Fault Refusal :=
  match frameRead s.data s.xp.byteIdx with
  | some b =>
    .next (s.pin .data (levelOfBit (bitOf b s.xp.bitIdx))
      (·.goto ⟨.s3b, s.xp.byteIdx, s.xp.bitIdx⟩))
  | none => .fault .frameIndexOutside

/-- `S3B` (R161), step 3b: the setup time before the edge. -/
def execS3B (s : State) : Host.Outcome State Fault Refusal :=
  .next (s.wait delayUnit (·.goto ⟨.s3c1, s.xp.byteIdx, s.xp.bitIdx⟩))

/-- `S3C1` (R162), step 3c: the rising edge that shifts the bit in. -/
def execS3C1 (s : State) : Host.Outcome State Fault Refusal :=
  .next (s.pin .shift .hi (·.goto ⟨.s3c2, s.xp.byteIdx, s.xp.bitIdx⟩))

/-- `S3C2` (R163), step 3c: the shift clock held high. -/
def execS3C2 (s : State) : Host.Outcome State Fault Refusal :=
  .next (s.wait delayUnit (·.goto ⟨.s3d, s.xp.byteIdx, s.xp.bitIdx⟩))

/-- `S3D` (R164), step 3d: the shift clock low; no wait follows. -/
def execS3D (s : State) : Host.Outcome State Fault Refusal :=
  .next (s.pin .shift .lo (·.goto ⟨.s3e, s.xp.byteIdx, s.xp.bitIdx⟩))

/-- `S3E` (R165), step 3e: `DATA` low whatever the bit was; then the next bit, the next byte or step 4. -/
def execS3E (s : State) : Host.Outcome State Fault Refusal :=
  .next (s.pin .data .lo (·.goto (afterBit s.data.length s.xp.byteIdx s.xp.bitIdx)))

/-- `S4A` (R166), step 4: the wait before the latch edge. -/
def execS4A (s : State) : Host.Outcome State Fault Refusal :=
  .next (s.wait delayUnit (·.goto ⟨.s4b, 0, 0#3⟩))

/-- `S4B` (R167), step 4: the call's one latch edge. The line is left high. -/
def execS4B (s : State) : Host.Outcome State Fault Refusal :=
  .next (s.pin .latch .hi (·.goto ⟨.s4c, 0, 0#3⟩))

/-- `S4C` (R168), step 4: the last wait; when it returns the call is answered `Ok`. -/
def execS4C (s : State) : Host.Outcome State Fault Refusal :=
  .next (s.wait delayUnit (·.respond .ok))

end Sys2Proof.Machine
end

