-- ==== Sys2Proof/Machine/Dispatch.lean ====
section
/-!
DEFINITION. One arm per instruction, each one call of its meaning.
-/

namespace Sys2Proof.Machine

def exec (i : Instr) (s : State) : Host.Outcome State Fault Refusal :=
  match i with
  -- the commands (40_commands.md)
  | .shiftOut data => Sys2Proof.Machine.execShiftOut data s
  | .shiftOutInfallible data => Sys2Proof.Machine.execShiftOutInfallible data s
  -- the micro-operations (41_micro_ops.md)
  | .clrLo => Sys2Proof.Machine.execClrLo s
  | .clrHi => Sys2Proof.Machine.execClrHi s
  | .shiftLo => Sys2Proof.Machine.execShiftLo s
  | .shiftHi => Sys2Proof.Machine.execShiftHi s
  | .latchLo => Sys2Proof.Machine.execLatchLo s
  | .latchHi => Sys2Proof.Machine.execLatchHi s
  | .dataLo => Sys2Proof.Machine.execDataLo s
  | .dataHi => Sys2Proof.Machine.execDataHi s
  | .wait n => Sys2Proof.Machine.execWait n s
  -- the phases (42_sequence.md)
  | .idle => Sys2Proof.Machine.execIdle s
  | .s1a => Sys2Proof.Machine.execS1A s
  | .s1b => Sys2Proof.Machine.execS1B s
  | .s2a => Sys2Proof.Machine.execS2A s
  | .s2b => Sys2Proof.Machine.execS2B s
  | .s2c => Sys2Proof.Machine.execS2C s
  | .s2d => Sys2Proof.Machine.execS2D s
  | .s2e => Sys2Proof.Machine.execS2E s
  | .s2f => Sys2Proof.Machine.execS2F s
  | .s3a => Sys2Proof.Machine.execS3A s
  | .s3b => Sys2Proof.Machine.execS3B s
  | .s3c1 => Sys2Proof.Machine.execS3C1 s
  | .s3c2 => Sys2Proof.Machine.execS3C2 s
  | .s3d => Sys2Proof.Machine.execS3D s
  | .s3e => Sys2Proof.Machine.execS3E s
  | .s4a => Sys2Proof.Machine.execS4A s
  | .s4b => Sys2Proof.Machine.execS4B s
  | .s4c => Sys2Proof.Machine.execS4C s

end Sys2Proof.Machine
end

