-- ==== Sys2Proof/Machine/Fetch.lean ====
section
/-!
DEFINITION. What a step runs. The block has no instruction memory (20_memory.md R66): while a call runs, the
phase code in `xp.phase` is the word it executes (R93); at `IDLE` it executes what arrives on the command
port, or nothing (42_sequence.md R151). The host's other moves between calls (60_exceptions.md R245) are here
too.
-/

namespace Sys2Proof.Machine

/-- What the next step is. -/
inductive Fetched where
  /-- The word to decode and run, and the state it runs in. -/
  | word (w : Word) (s : State)
  /-- A move of the host that is no instruction, and the state after it. -/
  | moved (s : State)
  deriving DecidableEq, Repr

/-- What a move of the host at `IDLE` gives, once it has been taken off the list (R245; log 4). Only the two
commands start anything (R117). -/
def State.onHostMove (s : State) : HostMove → Fetched
  | .command w frame => .word (.command w frame) s
  | .receive => .moved s.received
  | .drive w => .moved (s.driven w)
  | .useDelay _ => .moved s
  | .reset => .moved s.resetEvent

/-- What the next step runs: the phase's word while a call runs, during which the host has no move (R116,
R245 rows 4, 7, 8, 12); at `IDLE` the host's next move, and without one the word of `IDLE`. -/
def State.fetch (s : State) : Fetched :=
  if s.busy then .word (.phase s.xp.phase.code) s
  else
    match s.host with
    | [] => .word (.phase s.xp.phase.code) s
    | m :: rest => State.onHostMove { s with host := rest } m

/-- The frame of the call in which a phase or a micro-operation is put to run (DESIGN CHOICE, log 8): one byte,
with the first bit 1 where `DATA_HI` is to be issued. -/
def soloFrame : Instr → List Byte
  | .dataHi => [0x01#8]
  | _ => [0x00#8]

/-- A phase that issues a micro-operation (R93, R133 to R141); where there are several, one of them (DESIGN
CHOICE, log 8). No phase issues a wait of other than one delay unit (R139). -/
def issuingPhase : Instr → Option Phase
  | .clrLo => some .s2a
  | .clrHi => some .s2e
  | .shiftLo => some .s1a
  | .shiftHi => some .s2b
  | .latchLo => some .s1b
  | .latchHi => some .s4b
  | .dataLo => some .s3e
  | .dataHi => some .s3a
  | .wait n => if n = delayUnit then some .s2c else none
  | _ => none

/-- The state at phase `p` of a running `SHIFT_OUT` call of `frame`, at its first bit (log 8). -/
def State.inCall (s : State) (p : Phase) (frame : List Byte) : State :=
  { s with xp := ⟨p, 0, 0#3⟩, variant := .shiftOut, data := frame }

/-- The state in which the next step runs word `w` (DESIGN CHOICE, log 8): a command is the host's next move,
for the infallible command on a platform that offers it; a micro-operation is run by a phase that issues it; a
phase is entered in a call of one byte. A reserved word (R94, R96), and a wait that no phase issues (R139),
have no such state: the state is left as it was, and the next step runs what stood there before. -/
def State.placeWord (s : State) : Word → State
  | .command w frame =>
    { s with
      cfg := if w = 1#1 then { s.cfg with errs := .finite 0 } else s.cfg
      xp := .rest
      host := .command w frame :: s.host }
  | .micro w =>
    match decodeMicro w with
    | .ok i =>
      match issuingPhase i with
      | some p => s.inCall p (soloFrame i)
      | none => s
    | .error _ => s
  | .phase w =>
    match Phase.ofCode w with
    | .ok .idle => { s with xp := .rest, host := [] }
    | .ok p => s.inCall p (soloFrame p.toInstr)
    | .error _ => s

end Sys2Proof.Machine
end

