-- ==== Sys2Proof/Machine/Step.lean ====
section
/-!
DEFINITION. One step: fetch, decode, execute. One step is one micro-operation, one command or one move of the
host (00_scope.md R9, D1).
-/

namespace Sys2Proof.Machine

/-- One step of the machine. A word the decoder refuses would be refused by name (R94); no state fetches one. -/
def step (s : State) : Host.Outcome State Fault Refusal :=
  match s.fetch with
  | .moved t => .next t
  | .word w t =>
    match decode w with
    | .ok i => exec i t
    | .error why => .refused (.reservedWord why)

/-- The state with the table's word `w` placed where the next step runs it. A `w` that is no word of its format
(bits set outside it) is not placed: the state is left as it was, and the next step runs what stood there
before, which from reset is `IDLE` (DESIGN CHOICE, log 8). -/
def State.withFetchWord (s : State) (nbits w : Nat) : State :=
  match tableWord nbits w with
  | .ok word => s.placeWord word
  | .error _ => s

end Sys2Proof.Machine
end

