-- ==== Sys2Proof/Machine/Trace.lean ====
section
/-!
DEFINITION. The traces the rules speak of: the pseudo-operations of 30_encoding.md R100, the trace of a whole
call and of a failed one (42_sequence.md R178), the counts of R171, the text form of R99. None of it is
used by a step; it is what statements about a call compare a trace with.
-/

namespace Sys2Proof.Machine

/-- A pin operation answered `ok`. -/
def okPin (l : Line) (v : Level) : Event := .pin l v .ok

/-- `W`, a wait of one delay unit (R99). -/
def unitWait : Event := .wait delayUnit

/-- `IDLE_SETUP` (R100, step 1). -/
def idleSetup : List Event := [okPin .shift .lo, okPin .latch .lo]

/-- `CLEAR_PULSE` (R100, step 2). -/
def clearPulse : List Event :=
  [okPin .clr .lo, okPin .shift .hi, unitWait, okPin .shift .lo, okPin .clr .hi, unitWait]

/-- `BIT b` (R100, step 3). -/
def bitEvents (b : Bool) : List Event :=
  [okPin .data (levelOfBit b), unitWait, okPin .shift .hi, unitWait, okPin .shift .lo, okPin .data .lo]

/-- `LATCH_PULSE` (R100, step 4). -/
def latchPulse : List Event := [unitWait, okPin .latch .hi, unitWait]

/-- What every call begins with: steps 1 and 2. -/
def opening : List Event := idleSetup ++ clearPulse

/-- The bits of a byte, least significant first (R56). -/
def byteBits (b : Byte) : List Bool :=
  [b.getLsbD 0, b.getLsbD 1, b.getLsbD 2, b.getLsbD 3, b.getLsbD 4, b.getLsbD 5, b.getLsbD 6, b.getLsbD 7]

/-- The bit stream of a frame: `s[8*i + j] = data[i][j]` (R56). -/
def frameBits (data : List Byte) : List Bool := data.flatMap byteBits

/-- `BYTE v` (R100). -/
def byteEvents (v : Byte) : List Event := (byteBits v).flatMap bitEvents

/-- `FRAME data`, the whole successful trace (R100, R150). -/
def frameTrace (data : List Byte) : List Event :=
  opening ++ data.flatMap byteEvents ++ latchPulse

/-- A trace cut after its pin operation number `f`, counted from 1, with that event answered `err(e)`: the
trace of a call whose `f`-th pin operation fails (R178). -/
def failedAt (e : ErrCode) : Nat → List Event → List Event
  | _, [] => []
  | f, .wait n :: rest => .wait n :: failedAt e f rest
  | 0, .pin _ _ _ :: _ => []
  | 1, .pin l v _ :: _ => [.pin l v (.err e)]
  | f + 2, .pin l v a :: rest => .pin l v a :: failedAt e (f + 1) rest

/-- The event is a pin operation. -/
def Event.isPin : Event → Bool
  | .pin _ _ _ => true
  | .wait _ => false

/-- The number of pin operations in a trace (R171). -/
def pinCount (t : List Event) : Nat := t.countP Event.isPin

/-- The number of waits in a trace (R171). -/
def waitCount (t : List Event) : Nat := t.countP (fun ev => !Event.isPin ev)

/-- The text of a micro-operation's mnemonic (R87). -/
def pinText : Line → Level → String
  | .clr, .lo => "CLR_LO"
  | .clr, .hi => "CLR_HI"
  | .shift, .lo => "SHIFT_LO"
  | .shift, .hi => "SHIFT_HI"
  | .latch, .lo => "LATCH_LO"
  | .latch, .hi => "LATCH_HI"
  | .data, .lo => "DATA_LO"
  | .data, .hi => "DATA_HI"

/-- The text form of an event (R99); an error value is written `e` and its number. -/
def Event.text : Event → String
  | .pin l v .ok => pinText l v
  | .pin l v (.err e) => pinText l v ++ "!e" ++ e.repr
  | .wait n => "WAIT " ++ n.toNat.repr

/-- The text of a trace: its items, oldest first, a space between two (R99). -/
def traceText (t : List Event) : String := " ".intercalate (t.map Event.text)

/-- A digit of a byte's hexadecimal form. -/
def hexDigit (d : BitVec 4) : String :=
  (["0", "1", "2", "3", "4", "5", "6", "7", "8", "9", "A", "B", "C", "D", "E", "F"][d.toNat]?).getD ""

/-- The text of a frame: its bytes in hexadecimal (R99). -/
def frameText (data : List Byte) : String :=
  "[" ++ ", ".intercalate
    (data.map fun b => "0x" ++ hexDigit (b.extractLsb' 4 4) ++ hexDigit (b.extractLsb' 0 4)) ++ "]"

/-- The text of a command (R99). -/
def commandText : Variant → List Byte → String
  | .shiftOut, data => "SHIFT_OUT " ++ frameText data
  | .infallible, data => "SHIFT_OUT_INFALLIBLE " ++ frameText data

/-- The text of a response (R99); a completion has none (R114). -/
def Response.text : Response → String
  | .ok => "-> Ok"
  | .err e => "-> Err(e" ++ e.repr ++ ")"
  | .completed => ""

end Sys2Proof.Machine
end

