-- ==== Sys2Proof/Safety.lean ====
section
/-!
DEFINITION. What a legal state is (42_sequence.md R169 and the widths of 10_state.md), and what a call on its
course looks like at every execution point (R150, R176, R178; 60_exceptions.md R236 to R239): the terms in
which statements about runs are made.
-/

namespace Sys2Proof.Machine

/-- The phases `S3A` to `S3E`, in which the two indices mean something (R24, R25). -/
def loopPhase : Phase → Bool
  | .s3a | .s3b | .s3c1 | .s3c2 | .s3d | .s3e => true
  | _ => false

/-- The execution point is legal (R169): inside the frame in `S3A` to `S3E`, zero elsewhere. -/
abbrev State.PointLegal (s : State) : Prop :=
  if loopPhase s.xp.phase then s.xp.byteIdx < s.data.length
  else s.xp.byteIdx = 0 ∧ s.xp.bitIdx = 0#3

/-- The chip's registers are `CHIP_DEPTH` bits wide (R230). -/
abbrev State.ChipSized (s : State) : Prop :=
  s.sr.length = s.cfg.chipDepth ∧ s.out.length = s.cfg.chipDepth

/-- A call of `SHIFT_OUT_INFALLIBLE` runs only where `E` is empty (R112, R211). -/
abbrev State.VariantOffered (s : State) : Prop :=
  s.busy = true → s.variant = .infallible → s.cfg.errs.isEmpty = true

/-- The invariant: true at reset and kept by every step. -/
abbrev State.Legal (s : State) : Prop :=
  s.PointLegal ∧ s.ChipSized ∧ s.VariantOffered

/-- `k = 8*i + j`, the number of the bit in the stream (R160). -/
def bitNumber (x : ExecPoint) : Nat := 8 * x.byteIdx + x.bitIdx.toNat

/-- Bit `k` of the stream, `s[k] = data[k div 8][k mod 8]` (R172). -/
def streamBit (data : List Byte) (k : Nat) : Bool := ((data[k / 8]?).getD 0#8).getLsbD (k % 8)

/-- The events of the first `k` bits, after the opening (R150). -/
def loadedEvents (data : List Byte) (k : Nat) : List Event :=
  opening ++ ((frameBits data).take k).flatMap bitEvents

/-- The pin operation that a phase issues (R93): line and level, the level of the frame's bit at `S3A`. -/
def phasePin (data : List Byte) (x : ExecPoint) : Option (Line × Level) :=
  match x.phase with
  | .s1a | .s2d | .s3d => some (.shift, .lo)
  | .s1b => some (.latch, .lo)
  | .s2a => some (.clr, .lo)
  | .s2b | .s3c1 => some (.shift, .hi)
  | .s2e => some (.clr, .hi)
  | .s3a => (data[x.byteIdx]?).map fun b => (.data, levelOfBit (bitOf b x.bitIdx))
  | .s3e => some (.data, .lo)
  | .s4b => some (.latch, .hi)
  | _ => none

/-- How many events of its own group come before a phase's event. -/
def phaseOffset : Phase → Nat
  | .idle | .s1a => 0
  | .s1b => 1
  | .s2a => 2
  | .s2b => 3
  | .s2c => 4
  | .s2d => 5
  | .s2e => 6
  | .s2f => 7
  | .s3a => 0
  | .s3b => 1
  | .s3c1 => 2
  | .s3c2 => 3
  | .s3d => 4
  | .s3e => 5
  | .s4a => 0
  | .s4b => 1
  | .s4c => 2

/-- The events issued before the execution point `x` in a call of the frame `data` that has met no
fault (R150, R178). -/
def eventsBefore (data : List Byte) (x : ExecPoint) : List Event :=
  match x.phase with
  | .idle => []
  | .s1a | .s1b | .s2a | .s2b | .s2c | .s2d | .s2e | .s2f => opening.take (phaseOffset x.phase)
  | .s3a | .s3b | .s3c1 | .s3c2 | .s3d | .s3e =>
    loadedEvents data (bitNumber x)
      ++ (bitEvents (streamBit data (bitNumber x))).take (phaseOffset x.phase)
  | .s4a | .s4b | .s4c =>
    loadedEvents data (8 * data.length) ++ latchPulse.take (phaseOffset x.phase)

/-- The trace so far is the sequence's own, every answer `ok` (R178). -/
abbrev State.TraceOnCourse (s : State) : Prop :=
  s.busy = true → s.trace = eventsBefore s.data s.xp

/-- The levels the call has set so far (R176, R179): the wires its earlier phases drove. -/
def State.WiresOnCourse (s : State) : Prop :=
  match s.xp.phase with
  | .idle | .s1a => True
  | .s1b => s.wires.shift = .lo
  | .s2a => s.wires.shift = .lo ∧ s.wires.latch = .lo
  | .s2b => s.wires.clr = .lo ∧ s.wires.shift = .lo ∧ s.wires.latch = .lo
  | .s2c | .s2d => s.wires.clr = .lo ∧ s.wires.shift = .hi ∧ s.wires.latch = .lo
  | .s2e => s.wires.clr = .lo ∧ s.wires.shift = .lo ∧ s.wires.latch = .lo
  | .s2f => s.wires.clr = .hi ∧ s.wires.shift = .lo ∧ s.wires.latch = .lo
  | .s3a =>
    s.wires.clr = .hi ∧ s.wires.shift = .lo ∧ s.wires.latch = .lo
      ∧ (0 < bitNumber s.xp → s.wires.data = .lo)
  | .s3b | .s3c1 =>
    s.wires.clr = .hi ∧ s.wires.shift = .lo ∧ s.wires.latch = .lo
      ∧ s.wires.data = Level.onWire (levelOfBit (streamBit s.data (bitNumber s.xp)))
  | .s3c2 | .s3d =>
    s.wires.clr = .hi ∧ s.wires.shift = .hi ∧ s.wires.latch = .lo
      ∧ s.wires.data = Level.onWire (levelOfBit (streamBit s.data (bitNumber s.xp)))
  | .s3e =>
    s.wires.clr = .hi ∧ s.wires.shift = .lo ∧ s.wires.latch = .lo
      ∧ s.wires.data = Level.onWire (levelOfBit (streamBit s.data (bitNumber s.xp)))
  | .s4a | .s4b =>
    s.wires.clr = .hi ∧ s.wires.shift = .lo ∧ s.wires.latch = .lo
      ∧ (0 < s.data.length → s.wires.data = .lo)
  | .s4c =>
    s.wires.clr = .hi ∧ s.wires.shift = .lo ∧ s.wires.latch = .hi
      ∧ (0 < s.data.length → s.wires.data = .lo)

/-- A chip of `depth` stages that was cleared and then took `bits`, first bit first (R239): the last bit
sent at stage 0, zeros in the stages that the stream did not reach. -/
def chipLoaded (depth : Nat) (bits : List Bool) : List Bool :=
  (bits.reverse ++ List.replicate depth false).take depth

/-- What the chip holds at each point of a call (R236, R238, R239): nothing is said before the end of
`S2B`, and `out` is said after the latch edge. -/
def State.ChipOnCourse (s : State) : Prop :=
  match s.xp.phase with
  | .idle | .s1a | .s1b | .s2a | .s2b => True
  | .s2c | .s2d | .s2e | .s2f => s.sr = chipLoaded s.cfg.chipDepth []
  | .s3a | .s3b | .s3c1 =>
    s.sr = chipLoaded s.cfg.chipDepth ((frameBits s.data).take (bitNumber s.xp))
  | .s3c2 | .s3d | .s3e =>
    s.sr = chipLoaded s.cfg.chipDepth ((frameBits s.data).take (bitNumber s.xp + 1))
  | .s4a | .s4b => s.sr = chipLoaded s.cfg.chipDepth (frameBits s.data)
  | .s4c => s.sr = chipLoaded s.cfg.chipDepth (frameBits s.data) ∧ s.out = s.sr

/-- A call on its course: trace, wires and chip are what the sequence has made of them so far. At `IDLE`
it says nothing. -/
abbrev State.OnCourse (s : State) : Prop :=
  s.TraceOnCourse ∧ s.WiresOnCourse ∧ s.ChipOnCourse

/-- The next `n` pin operations are all answered `ok` (R131). -/
def State.AllOk (s : State) (n : Nat) : Prop := ∀ k < n, s.answerAt k = .ok

/-- `n` steps, each giving a next state. -/
def runs : Nat → State → Option State
  | 0, s => some s
  | n + 1, s =>
    match step s with
    | .next t => runs n t
    | _ => none

end Sys2Proof.Machine
end

