-- ==== Sys2Proof/Certificates/Slice0/Obligations.lean ====
section
/-!
DEFINITION. The statements for the provers, each formalising the rules of spec/ that its docstring names. A
statement about a free value holds for every value of it: none rests on an opaque constant of Config.
-/

namespace Sys2Proof.Machine

/-- What a pin operation answered `ok` on line `l` does beside its chip effect: `wire[l]` takes the
level and no other wire changes, one event is recorded (R130); of the model's own fields, one answer is
used up (log 3) and the host's moves stay (log 4). -/
def PinEffect (l : Line) (v : Level) (s t : State) : Prop :=
  t.wires.get l = Level.onWire v ∧ (∀ k : Line, k ≠ l → t.wires.get k = s.wires.get k)
    ∧ t.trace = s.trace ++ [.pin l v .ok]
    ∧ t.cfg = s.cfg ∧ t.host = s.host ∧ t.answers = s.answers.tail ∧ t.asked = s.asked + 1

/-- What a wait does: one event and nothing else of wires and chip (R139). -/
def WaitEffect (n : Byte) (s t : State) : Prop :=
  t.trace = s.trace ++ [.wait n] ∧ t.wires = s.wires ∧ t.sr = s.sr ∧ t.out = s.out
    ∧ t.cfg = s.cfg ∧ t.host = s.host ∧ t.answers = s.answers ∧ t.asked = s.asked

/-- The call goes on: its operands and the command port are untouched. -/
def CallGoesOn (s t : State) : Prop :=
  t.variant = s.variant ∧ t.data = s.data ∧ t.response = s.response

/-- `respond r` (R114): bare completion in a call whose `variant` is 1, else `r`, and the execution point is
at rest. While idle `variant` is not read (R35; log 7). -/
def CallAnswered (r : Response) (s t : State) : Prop :=
  t.xp = .rest
    ∧ t.response =
      some (if s.xp.phase ≠ .idle ∧ s.variant = .infallible then .completed else r)

/-- A pin operation as a micro-operation of its own, answered `ok` (R130). -/
def PinMicroOp (i : Instr) (l : Line) (v : Level) : Prop :=
  ∀ s : State, s.answer = .ok →
    ∃ t, exec i s = .next t ∧ PinEffect l v s t
      ∧ (s.xp.phase ≠ .s4c → t.xp = nextPoint s.data.length s.xp ∧ CallGoesOn s t)
      ∧ (s.xp.phase = .s4c → CallAnswered .ok s t)

/-- What `PinFault(e)` leaves after a pin operation on line `l` (R132, R200, R205): of the chip's
registers only the width is said. -/
def FaultEffect (l : Line) (v : Level) (e : ErrCode) (s t : State) : Prop :=
  t.wires.get l = .unknown ∧ (∀ k : Line, k ≠ l → t.wires.get k = s.wires.get k)
    ∧ t.trace = s.trace ++ [.pin l v (.err e)]
    ∧ t.sr.length = s.cfg.chipDepth ∧ t.out.length = s.cfg.chipDepth
    ∧ CallAnswered (.err e) s t ∧ t.cfg = s.cfg

/-- A pin operation as a micro-operation of its own, answered `err(e)` (R130, R200). -/
def PinMicroOpFails (i : Instr) (l : Line) (v : Level) : Prop :=
  ∀ (s : State) (e : ErrCode), s.answer = .err e →
    ∃ t, exec i s = .next t ∧ FaultEffect l v e s t
      ∧ t.host = s.host ∧ t.answers = s.answers.tail ∧ t.asked = s.asked + 1

/-- A phase that issues a pin operation, answered `ok`: the operation's effect, the next point its rule
names, the call's operands kept, and the chip's registers kept as far as the two flags say. -/
def PinPhase (i : Instr) (p : Phase) (l : Line) (v : Level) (next : State → ExecPoint)
    (keepsSr keepsOut : Bool) : Prop :=
  ∀ s : State, s.xp.phase = p → s.answer = .ok →
    ∃ t, exec i s = .next t ∧ PinEffect l v s t ∧ CallGoesOn s t ∧ t.xp = next s
      ∧ (keepsSr = true → t.sr = s.sr) ∧ (keepsOut = true → t.out = s.out)

/-- A phase that issues `WAIT 1` and goes on. -/
def WaitPhase (i : Instr) (p : Phase) (next : State → ExecPoint) : Prop :=
  ∀ s : State, s.xp.phase = p →
    ∃ t, exec i s = .next t ∧ WaitEffect delayUnit s t ∧ CallGoesOn s t ∧ t.xp = next s

/-- A phase whose pin operation is answered `err(e)` (R177): the call ends at once with `Err(e)`. -/
def AbortsAt (i : Instr) (p : Phase) (l : Line) (v : State → Level) : Prop :=
  ∀ (s : State) (e : ErrCode), s.xp.phase = p → s.Legal → s.answer = .err e →
    ∃ t, exec i s = .next t ∧ FaultEffect l (v s) e s t ∧ t.response = some (.err e)

/-- Two states that may differ in the wires, the chip, the free draws and the response, and while idle
in the operands, which nothing reads then (R35, R36). -/
def SameCall (s t : State) : Prop :=
  t.xp = s.xp ∧ t.trace = s.trace ∧ t.cfg.errs = s.cfg.errs ∧ t.host = s.host
    ∧ t.answers = s.answers ∧ t.asked = s.asked
    ∧ (s.busy = true → t.variant = s.variant ∧ t.data = s.data)

/-- Two steps that go the same way, to states of the same call. -/
def SameOutcome : Host.Outcome State Fault Refusal → Host.Outcome State Fault Refusal → Prop
  | .next s, .next t => SameCall s t
  | .fault a, .fault b => a = b
  | .refused a, .refused b => a = b
  | _, _ => False

/-- One machine whose chip clears on the level and one whose chip clears on the edge, alike but for the
shift register between `S2A` and `S2B` (R236); both on their course. -/
def ModesAgree (s t : State) : Prop :=
  s.cfg.clearMode = .level
    ∧ t = { s with cfg := { s.cfg with clearMode := .edge }, sr := t.sr }
    ∧ (s.xp.phase ≠ .s2b → t.sr = s.sr)
    ∧ s.OnCourse

/-- The host's next move is the command `w` with the frame `data`, the block is idle and legal, and the
command is one the platform offers (R111, R112). -/
def CallAccepted (s : State) (w : CommandWord) (data : List Byte) : Prop :=
  s.Legal ∧ s.xp.phase = .idle ∧ s.host.head? = some (.command w data)
    ∧ (w = 0#1 ∨ s.cfg.errs.isEmpty = true)

/-- The call that the host's next move starts, with all its `7 + 32 * L` pin operations answered `ok`. -/
def CallGoesWell (s : State) (w : CommandWord) (data : List Byte) : Prop :=
  CallAccepted s w data ∧ s.AllOk (7 + 32 * data.length)

/-- Instruction `i` is the micro-operation whose word is `w` (R87, R93). -/
def IssuesWord (i : Instr) (w : MicroWord) (s : State) : Prop :=
  ∃ m, decode (.micro w) = .ok m ∧ exec i s = exec m s

end Sys2Proof.Machine

open Sys2Proof Sys2Proof.Machine

/-- R40: after reset the phase is `IDLE`, the indices are 0, every wire is `Unknown`, the trace is
empty and no response is pending; the chip's registers are `CHIP_DEPTH` bits wide, any value. -/
def Obligations.ResetValues : Prop :=
  State.reset.xp = ⟨.idle, 0, 0#3⟩
    ∧ (∀ l : Line, State.reset.wires.get l = .unknown)
    ∧ State.reset.trace = [] ∧ State.reset.response = none
    ∧ State.reset.sr.length = State.reset.cfg.chipDepth
    ∧ State.reset.out.length = State.reset.cfg.chipDepth

/-- The invariants of LegalIsInvariant and OnCourseIsInvariant hold at reset (R40, R169, R230). -/
def Obligations.ResetIsLegal : Prop := State.reset.Legal ∧ State.reset.OnCourse

/-- R111: in `IDLE` a `SHIFT_OUT` of any frame, the empty one too (R118), starts a call at `S1A` with its
operands held and an empty trace; wires and chip are as they were. The response of the call before is
off the port (the model's choice, log 10). -/
def Obligations.ShiftOutStartsCall : Prop :=
  ∀ (s : State) (data : List Byte), s.xp.phase = .idle →
    ∃ t, exec (.shiftOut data) s = .next t
      ∧ t.variant = .shiftOut ∧ t.data = data ∧ t.trace = [] ∧ t.xp = ⟨.s1a, 0, 0#3⟩
      ∧ t.response = none
      ∧ t.wires = s.wires ∧ t.sr = s.sr ∧ t.out = s.out ∧ t.cfg = s.cfg ∧ t.host = s.host
      ∧ t.answers = s.answers ∧ t.asked = s.asked

/-- R112: in `IDLE`, and where `E` is empty, `SHIFT_OUT_INFALLIBLE` starts a call as `SHIFT_OUT` does,
with `variant` 1. -/
def Obligations.InfallibleStartsCall : Prop :=
  ∀ (s : State) (data : List Byte), s.xp.phase = .idle → s.cfg.errs.isEmpty = true →
    ∃ t, exec (.shiftOutInfallible data) s = .next t
      ∧ t.variant = .infallible ∧ t.data = data ∧ t.trace = [] ∧ t.xp = ⟨.s1a, 0, 0#3⟩
      ∧ t.response = none
      ∧ t.wires = s.wires ∧ t.sr = s.sr ∧ t.out = s.out ∧ t.cfg = s.cfg ∧ t.host = s.host
      ∧ t.answers = s.answers ∧ t.asked = s.asked

/-- R112, R211: where `E` has a member the infallible command does not exist: from `IDLE` it is refused
and starts nothing. -/
def Obligations.InfallibleRefusedWithErrors : Prop :=
  ∀ (s : State) (data : List Byte), s.xp.phase = .idle → s.cfg.errs.isEmpty = false →
    exec (.shiftOutInfallible data) s = .refused .infallibleNotOffered

/-- R116: a command is admitted only in `IDLE`. While a call runs both commands are refused, and the
host has no move: the step is the phase's own, whatever the host would do next, and takes no move. -/
def Obligations.NoCommandWhileBusy : Prop :=
  ∀ s : State, s.xp.phase ≠ .idle →
    (∀ data, exec (.shiftOut data) s = .refused .busy)
      ∧ (∀ data, exec (.shiftOutInfallible data) s = .refused .busy)
      ∧ step s = exec s.xp.phase.toInstr s
      ∧ (∀ t, step s = .next t → t.host = s.host)

/-- R130, R133 to R138, R140, R141, R142: each of the eight pin operations, answered `ok`, sets its wire
whatever level the wire had, changes no other wire, records one event and moves the execution point by
the next-phase function; at `S4C`, where none is issued, that ends the call. The chip effects are in
ShiftClockLoadsBit to OtherChangesLeaveChip. -/
def Obligations.PinOperationsAnsweredOk : Prop :=
  PinMicroOp .clrLo .clr .lo ∧ PinMicroOp .clrHi .clr .hi
    ∧ PinMicroOp .shiftLo .shift .lo ∧ PinMicroOp .shiftHi .shift .hi
    ∧ PinMicroOp .latchLo .latch .lo ∧ PinMicroOp .latchHi .latch .hi
    ∧ PinMicroOp .dataLo .data .lo ∧ PinMicroOp .dataHi .data .hi

/-- R130, R132, R200, R205: each of the eight pin operations, answered `err(e)`, leaves its wire
`Unknown` and the other three as they were, records the failed event, and ends the call with
`Err(e)`; the chip's registers are `CHIP_DEPTH` bits of any value. -/
def Obligations.PinOperationsAnsweredErr : Prop :=
  PinMicroOpFails .clrLo .clr .lo ∧ PinMicroOpFails .clrHi .clr .hi
    ∧ PinMicroOpFails .shiftLo .shift .lo ∧ PinMicroOpFails .shiftHi .shift .hi
    ∧ PinMicroOpFails .latchLo .latch .lo ∧ PinMicroOpFails .latchHi .latch .hi
    ∧ PinMicroOpFails .dataLo .data .lo ∧ PinMicroOpFails .dataHi .data .hi

/-- R139: `WAIT n`, for every `n`, is one event; it changes no wire and nothing in the chip, cannot
fail, and moves the execution point by the next-phase function, at `S4C` with the response `Ok`. -/
def Obligations.WaitIsOneEvent : Prop :=
  ∀ (s : State) (n : Byte),
    ∃ t, exec (.wait n) s = .next t ∧ WaitEffect n s t
      ∧ (s.xp.phase ≠ .s4c → t.xp = nextPoint s.data.length s.xp ∧ CallGoesOn s t)
      ∧ (s.xp.phase = .s4c → CallAnswered .ok s t)

/-- R151: `IDLE` issues nothing; without a command nothing changes. -/
def Obligations.IdleIssuesNothing : Prop :=
  ∀ s : State, exec .idle s = .next s ∧ (s.xp.phase = .idle → s.host = [] → step s = .next s)

/-- R152 to R155, R157, R158: the pin operations of steps 1 and 2, answered `ok`. -/
def Obligations.OpeningPinPhases : Prop :=
  PinPhase .s1a .s1a .shift .lo (fun _ => ⟨.s1b, 0, 0#3⟩) true true
    ∧ PinPhase .s1b .s1b .latch .lo (fun _ => ⟨.s2a, 0, 0#3⟩) true true
    ∧ PinPhase .s2a .s2a .clr .lo (fun _ => ⟨.s2b, 0, 0#3⟩) false true
    ∧ PinPhase .s2b .s2b .shift .hi (fun _ => ⟨.s2c, 0, 0#3⟩) false true
    ∧ PinPhase .s2d .s2d .shift .lo (fun _ => ⟨.s2e, 0, 0#3⟩) true true
    ∧ PinPhase .s2e .s2e .clr .hi (fun _ => ⟨.s2f, 0, 0#3⟩) true true

/-- R156, R159: the two waits of step 2; after the second an empty frame goes straight to step 4. -/
def Obligations.ClearPulseWaits : Prop :=
  WaitPhase .s2c .s2c (fun _ => ⟨.s2d, 0, 0#3⟩)
    ∧ WaitPhase .s2f .s2f
        (fun s => if s.data = [] then ⟨.s4a, 0, 0#3⟩ else ⟨.s3a, 0, 0#3⟩)

/-- R160, R91: at `S3A`, inside the frame, `DATA` takes the level of bit `bit_idx` of byte
`byte_idx`. -/
def Obligations.DataPhasePresentsBit : Prop :=
  ∀ (s : State) (b : Byte), s.xp.phase = .s3a → s.data[s.xp.byteIdx]? = some b → s.answer = .ok →
    ∃ t, exec .s3a s = .next t
      ∧ PinEffect .data (if b.getLsbD s.xp.bitIdx.toNat then .hi else .lo) s t
      ∧ CallGoesOn s t ∧ t.xp = ⟨.s3b, s.xp.byteIdx, s.xp.bitIdx⟩ ∧ t.sr = s.sr ∧ t.out = s.out

/-- R161 to R165: the rest of step 3. After `S3E` comes the next bit, the next byte, or step 4. -/
def Obligations.BitLoadingPhases : Prop :=
  WaitPhase .s3b .s3b (fun s => ⟨.s3c1, s.xp.byteIdx, s.xp.bitIdx⟩)
    ∧ PinPhase .s3c1 .s3c1 .shift .hi (fun s => ⟨.s3c2, s.xp.byteIdx, s.xp.bitIdx⟩) false true
    ∧ WaitPhase .s3c2 .s3c2 (fun s => ⟨.s3d, s.xp.byteIdx, s.xp.bitIdx⟩)
    ∧ PinPhase .s3d .s3d .shift .lo (fun s => ⟨.s3e, s.xp.byteIdx, s.xp.bitIdx⟩) true true
    ∧ PinPhase .s3e .s3e .data .lo
        (fun s =>
          if s.xp.bitIdx.toNat < 7 then
            ⟨.s3a, s.xp.byteIdx, BitVec.ofNat 3 (s.xp.bitIdx.toNat + 1)⟩
          else if s.xp.byteIdx + 1 < s.data.length then ⟨.s3a, s.xp.byteIdx + 1, 0#3⟩
          else ⟨.s4a, 0, 0#3⟩) true true

/-- R166 to R168: step 4; when the last wait has returned the call is answered `Ok`. -/
def Obligations.LatchPhases : Prop :=
  WaitPhase .s4a .s4a (fun _ => ⟨.s4b, 0, 0#3⟩)
    ∧ PinPhase .s4b .s4b .latch .hi (fun _ => ⟨.s4c, 0, 0#3⟩) true false
    ∧ ∀ s : State, s.xp.phase = .s4c →
        ∃ t, exec .s4c s = .next t ∧ WaitEffect delayUnit s t ∧ CallAnswered .ok s t

/-- R177: from each of the eleven phases that issue a pin operation the answer `err(e)` ends the call at
once: the failed operation is the trace's last event, the response is `Err(e)`, and the block is idle,
where it issues nothing more. -/
def Obligations.PinErrorAbortsCall : Prop :=
  AbortsAt .s1a .s1a .shift (fun _ => .lo) ∧ AbortsAt .s1b .s1b .latch (fun _ => .lo)
    ∧ AbortsAt .s2a .s2a .clr (fun _ => .lo) ∧ AbortsAt .s2b .s2b .shift (fun _ => .hi)
    ∧ AbortsAt .s2d .s2d .shift (fun _ => .lo) ∧ AbortsAt .s2e .s2e .clr (fun _ => .hi)
    ∧ AbortsAt .s3a .s3a .data
        (fun s => levelOfBit (((s.data[s.xp.byteIdx]?).getD 0#8).getLsbD s.xp.bitIdx.toNat))
    ∧ AbortsAt .s3c1 .s3c1 .shift (fun _ => .hi) ∧ AbortsAt .s3d .s3d .shift (fun _ => .lo)
    ∧ AbortsAt .s3e .s3e .data (fun _ => .lo) ∧ AbortsAt .s4b .s4b .latch (fun _ => .hi)
    ∧ ∀ s : State, s.xp.phase = .idle → s.host = [] → step s = .next s

/-- R52 defines `FrameRead` inside the frame only; asked for a byte outside it, `S3A` stops by name (the
model's choice, log 9). No legal execution point asks (LegalIsInvariant). -/
def Obligations.FrameReadOutsideStops : Prop :=
  ∀ s : State, s.data.length ≤ s.xp.byteIdx → exec .s3a s = .fault .frameIndexOutside

/-- R93: each phase is the micro-operation of the word its row of the table gives, `IDLE` none. -/
def Obligations.PhasesIssueTheirWords : Prop :=
  ∀ s : State,
    (s.xp.phase = .s1a → IssuesWord .s1a 0x100#12 s)
      ∧ (s.xp.phase = .s1b → IssuesWord .s1b 0x200#12 s)
      ∧ (s.xp.phase = .s2a → IssuesWord .s2a 0x000#12 s)
      ∧ (s.xp.phase = .s2b → IssuesWord .s2b 0x101#12 s)
      ∧ (s.xp.phase = .s2c → IssuesWord .s2c 0x401#12 s)
      ∧ (s.xp.phase = .s2d → IssuesWord .s2d 0x100#12 s)
      ∧ (s.xp.phase = .s2e → IssuesWord .s2e 0x001#12 s)
      ∧ (s.xp.phase = .s2f → IssuesWord .s2f 0x401#12 s)
      ∧ (s.xp.phase = .s3a → ∀ b, s.data[s.xp.byteIdx]? = some b →
          IssuesWord .s3a (if b.getLsbD s.xp.bitIdx.toNat then 0x301#12 else 0x300#12) s)
      ∧ (s.xp.phase = .s3b → IssuesWord .s3b 0x401#12 s)
      ∧ (s.xp.phase = .s3c1 → IssuesWord .s3c1 0x101#12 s)
      ∧ (s.xp.phase = .s3c2 → IssuesWord .s3c2 0x401#12 s)
      ∧ (s.xp.phase = .s3d → IssuesWord .s3d 0x100#12 s)
      ∧ (s.xp.phase = .s3e → IssuesWord .s3e 0x300#12 s)
      ∧ (s.xp.phase = .s4a → IssuesWord .s4a 0x401#12 s)
      ∧ (s.xp.phase = .s4b → IssuesWord .s4b 0x201#12 s)
      ∧ (s.xp.phase = .s4c → IssuesWord .s4c 0x401#12 s)
      ∧ exec .idle s = .next s

/-- R233: on a rising edge of the shift clock, with clear not asserted and `DATA` known, every stage
takes the stage before it, stage 0 takes the bit, and `out` does not change. -/
def Obligations.ShiftClockLoadsBit : Prop :=
  ∀ (s : State) (d : Level), s.ChipSized → s.answer = .ok →
    s.wires.shift = .lo → s.wires.clr = .hi → s.wires.data = Level.onWire d →
    ∃ t, exec .shiftHi s = .next t ∧ t.out = s.out ∧ t.sr.length = s.cfg.chipDepth
      ∧ (∀ m, m + 1 < s.cfg.chipDepth → t.sr[m + 1]? = s.sr[m]?)
      ∧ (0 < s.cfg.chipDepth → t.sr[0]? = some (decide (d = .hi)))

/-- R234: `CLR_LO` empties the shift register where `CLEAR_MODE` is `level` and leaves it where it is
`edge`; a rising edge of the shift clock with clear low empties it in both modes; `out` does not
change. -/
def Obligations.ClearEmptiesShiftRegister : Prop :=
  (∀ s : State, s.answer = .ok →
    ∃ t, exec .clrLo s = .next t ∧ t.out = s.out
      ∧ t.sr = (if s.cfg.clearMode = .level then List.replicate s.cfg.chipDepth false else s.sr))
    ∧ ∀ s : State, s.answer = .ok → s.wires.shift = .lo → s.wires.clr = .lo →
        ∃ t, exec .shiftHi s = .next t ∧ t.out = s.out
          ∧ t.sr = List.replicate s.cfg.chipDepth false

/-- R235: on a rising edge of the latch clock `out` takes `sr`, all stages in one step, and `sr` does not
change. -/
def Obligations.LatchClockCopiesRegister : Prop :=
  ∀ s : State, s.answer = .ok → s.wires.latch = .lo →
    ∃ t, exec .latchHi s = .next t ∧ t.out = s.sr ∧ t.sr = s.sr

/-- R237: an edge out of `Unknown`, or under an `Unknown` clear or data line, resolves nothing: the register
concerned takes the next free draw (log 5), of which nothing can be proved, within the bounds the rule gives,
and the other register keeps its own. The draw's number is used up. (An unknown shift edge under a low clear
level follows R237 too, log 12.) -/
def Obligations.UnknownLevelsStayOpen : Prop :=
  ∀ s : State, s.ChipSized → s.answer = .ok →
    (s.wires.shift = .unknown ∨ (s.wires.shift = .lo ∧ s.wires.clr = .unknown) →
      ∃ t, exec .shiftHi s = .next t ∧ t.out = s.out ∧ t.sr.length = s.cfg.chipDepth
        ∧ t.sr = freeStages s.cfg.chipDepth s.draws ∧ s.draws < t.draws)
    ∧ (s.wires.shift = .lo → s.wires.clr = .hi → s.wires.data = .unknown →
      ∃ t, exec .shiftHi s = .next t ∧ t.out = s.out ∧ t.sr.length = s.cfg.chipDepth
        ∧ (∀ m, m + 1 < s.cfg.chipDepth → t.sr[m + 1]? = s.sr[m]?)
        ∧ (0 < s.cfg.chipDepth → t.sr[0]? = some (Config.freeBit s.draws 0)) ∧ s.draws < t.draws)
    ∧ (s.wires.latch = .unknown →
      ∃ t, exec .latchHi s = .next t ∧ t.sr = s.sr
        ∧ t.out = (if Config.freeBit s.draws 0 then s.sr else s.out) ∧ s.draws < t.draws)

/-- R232: falling edges, `DATA` operations, the release of clear, and a clock line that was high already
do nothing to the chip. -/
def Obligations.OtherChangesLeaveChip : Prop :=
  ∀ s : State, s.answer = .ok →
    (∀ i ∈ [Instr.clrHi, .shiftLo, .latchLo, .dataLo, .dataHi],
      ∃ t, exec i s = .next t ∧ t.sr = s.sr ∧ t.out = s.out)
    ∧ (s.wires.shift = .hi → ∃ t, exec .shiftHi s = .next t ∧ t.sr = s.sr ∧ t.out = s.out)
    ∧ (s.wires.latch = .hi → ∃ t, exec .latchHi s = .next t ∧ t.sr = s.sr ∧ t.out = s.out)

/-- A step runs the decoded instruction: while a call runs, that of the phase's code (R93, R22); at
`IDLE`, that of the command on the port (R111) with the move taken off the host's list; at `IDLE`
without a move, `IDLE` itself. -/
def Obligations.StepRunsDecodedInstruction : Prop :=
  ∀ s : State,
    (s.xp.phase ≠ .idle → ∀ i, decode (.phase s.xp.phase.code) = .ok i → step s = exec i s)
    ∧ (s.xp.phase = .idle → ∀ w data rest i, s.host = .command w data :: rest →
        decode (.command w data) = .ok i → step s = exec i { s with host := rest })
    ∧ (s.xp.phase = .idle → s.host = [] → step s = exec .idle s)

/-- R40, R245 rows 5, 6, 9, 13: what the host's other moves between calls do. -/
def Obligations.HostMovesBetweenCalls : Prop :=
  ∀ (s : State) (rest : List HostMove), s.xp.phase = .idle →
    (s.host = .receive :: rest → step s = .next { s with host := rest, response := none })
    ∧ (∀ n, s.host = .useDelay n :: rest → step s = .next { s with host := rest })
    ∧ (∀ w, s.host = .drive w :: rest →
        ∃ t, step s = .next t ∧ t.wires = w ∧ t.xp = s.xp ∧ t.trace = s.trace
          ∧ t.sr.length = s.cfg.chipDepth ∧ t.out.length = s.cfg.chipDepth
          ∧ t.response = s.response ∧ t.cfg = s.cfg ∧ t.host = rest)
    ∧ (s.host = .reset :: rest →
        ∃ t, step s = .next t ∧ t.xp = ⟨.idle, 0, 0#3⟩ ∧ (∀ l : Line, t.wires.get l = .unknown)
          ∧ t.trace = [] ∧ t.response = none
          ∧ t.sr.length = s.cfg.chipDepth ∧ t.out.length = s.cfg.chipDepth
          ∧ t.cfg = s.cfg ∧ t.host = rest)

/-- R94: the reserved format-M words, by the field that makes them so, are refused by name, and every other
word is an instruction. No step meets a reserved word, of any format (R94, R96, R97). -/
def Obligations.ReservedWordsRefused : Prop :=
  (∀ (kind line : BitVec 2) (arg : BitVec 8),
    (2 ≤ kind.toNat → decode (.micro (kind ++ line ++ arg)) = .error .reservedKind)
    ∧ (kind = 0#2 → 2 ≤ arg.toNat → decode (.micro (kind ++ line ++ arg)) = .error .reservedArg)
    ∧ (kind = 1#2 → line ≠ 0#2 → decode (.micro (kind ++ line ++ arg)) = .error .reservedLine)
    ∧ (kind = 0#2 ∧ arg.toNat < 2 ∨ kind = 1#2 ∧ line = 0#2 →
        ∃ i, decode (.micro (kind ++ line ++ arg)) = .ok i))
    ∧ ∀ (s : State) (why : DecodeError), step s ≠ .refused (.reservedWord why)

/-- R80 to R92: decoding and encoding agree in both directions: a word decodes to an instruction exactly
when it is that instruction's word. -/
def Obligations.DecodeIffEncode : Prop :=
  ∀ (w : Word) (i : Instr), decode w = .ok i ↔ encode i = w

/-- A few words of R82, R87 and R92, read as the tables read them. -/
def Obligations.SampleWordsDecode : Prop :=
  decode (.command 0b1#1 [0x81#8]) = .ok (.shiftOutInfallible [0x81#8])
    ∧ decode (.micro 0b001100000001#12) = .ok .dataHi
    ∧ decode (.micro 0b010000000001#12) = .ok (.wait 1#8)
    ∧ decode (.phase 0b01110#5) = .ok .s3e

/-- R92: the 18 codes and their phases; codes 18 to 31 name none (R96); and every transition of a call but
the loop-back from 14 to 9, the empty-frame skip from 8 to 15 and the returns to `IDLE` is the code plus
one. -/
def Obligations.PhaseCodesFollowText : Prop :=
  (∀ (k : Nat) (p : Phase),
      [Phase.idle, .s1a, .s1b, .s2a, .s2b, .s2c, .s2d, .s2e, .s2f, .s3a, .s3b, .s3c1, .s3c2, .s3d, .s3e,
        .s4a, .s4b, .s4c][k]? = some p →
      p.code.toNat = k ∧ Phase.ofCode p.code = .ok p)
    ∧ (∀ w : PhaseWord, 18 ≤ w.toNat → decode (.phase w) = .error .reservedPhase)
    ∧ ∀ s t : State, s.xp.phase ≠ .idle → step s = .next t →
        let c := s.xp.phase.code.toNat
        let c' := t.xp.phase.code.toNat
        c' = c + 1 ∨ (c = 14 ∧ c' = 9) ∨ (c = 8 ∧ c' = 15 ∧ s.data = [])
          ∨ (c' = 0 ∧ (c = 17 ∨ ∃ e, s.answer = .err e))

/-- R169 (with the widths of R230 and the admission of R112): every step keeps the invariant, and from
a legal execution point no step asks for a byte outside the frame. -/
def Obligations.LegalIsInvariant : Prop :=
  (∀ s t : State, s.Legal → step s = .next t → t.Legal)
    ∧ ∀ (s : State) (f : Fault), s.PointLegal → step s ≠ .fault f

/-- R150, R176, R178, R179, R236, R238: at every execution point of every call the trace is the
sequence's own prefix, the wires are what its phases drove, and the chip holds what was loaded. -/
def Obligations.OnCourseIsInvariant : Prop :=
  ∀ s t : State, s.Legal → s.OnCourse → step s = .next t → t.OnCourse

/-- R178: the trace of a call, of either command, is a function of the frame and of the position of the
first pin operation answered `err`. With none it is the expansion of `FRAME data`, `11 + 48 * L` events;
with one at pin operation `f` it is the prefix up to that operation, marked `err(e)`. -/
def Obligations.TraceOfACall : Prop :=
  ∀ (s : State) (w : CommandWord) (data : List Byte), CallAccepted s w data →
    (s.AllOk (7 + 32 * data.length) →
      ∃ t, runs (12 + 48 * data.length) s = some t ∧ t.xp = .rest
        ∧ t.trace = frameTrace data ∧ t.trace.length = 11 + 48 * data.length)
    ∧ ∀ (f : Nat) (e : ErrCode), 1 ≤ f → f ≤ 7 + 32 * data.length → s.AllOk (f - 1) →
        s.answerAt (f - 1) = .err e →
        ∃ n t, runs n s = some t ∧ t.xp = .rest ∧ t.trace = failedAt e f (frameTrace data)
          ∧ t.response = some (.err e)

/-- R176, R239: a call of `L` bytes, of either command, whose pin operations are all answered `ok` ends
after one step for the command and `11 + 48 * L` for its micro-operations, with `Ok` or, for the
infallible command, with bare completion; `CLR` is high, `SHIFT` low, `LATCH` high, `DATA` low, or as it
was where the frame is empty; stage `m` of the chip holds bit `8 * L - 1 - m` of the stream, or zero where
the stream did not reach, and the outputs show it. -/
def Obligations.CallLoadsChip : Prop :=
  ∀ (s : State) (w : CommandWord) (data : List Byte), CallGoesWell s w data →
    ∃ t, runs (12 + 48 * data.length) s = some t
      ∧ t.response = some (if w = 0#1 then .ok else .completed) ∧ t.xp = .rest
      ∧ t.wires.clr = .hi ∧ t.wires.shift = .lo ∧ t.wires.latch = .hi
      ∧ t.wires.data = (if data = [] then s.wires.data else .lo)
      ∧ t.out = t.sr ∧ t.sr.length = s.cfg.chipDepth
      ∧ ∀ m < s.cfg.chipDepth,
          t.sr[m]? = some (if m < 8 * data.length then streamBit data (8 * data.length - 1 - m)
            else false)

/-- R171, R284: the counts of a call that ends `Ok`. -/
def Obligations.CallCounts : Prop :=
  ∀ (s : State) (w : CommandWord) (data : List Byte), CallGoesWell s w data →
    ∃ t, runs (12 + 48 * data.length) s = some t
      ∧ pinCount t.trace = 7 + 32 * data.length ∧ waitCount t.trace = 4 + 16 * data.length
      ∧ t.trace.length = 11 + 48 * data.length
      ∧ t.trace.count (okPin .shift .hi) = 1 + 8 * data.length
      ∧ (t.trace.drop 7).count (okPin .shift .hi) = 8 * data.length
      ∧ t.trace.count (okPin .shift .lo) = 2 + 8 * data.length
      ∧ t.trace.count (okPin .data .lo) + t.trace.count (okPin .data .hi) = 16 * data.length
      ∧ t.trace.count (okPin .data .hi) = (frameBits data).count true
      ∧ t.trace.count (okPin .clr .lo) = 1 ∧ t.trace.count (okPin .clr .hi) = 1
      ∧ t.trace.count (okPin .latch .lo) = 1 ∧ t.trace.count (okPin .latch .hi) = 1

/-- R160 to R168: the trace positions. Event `9 + 6*k` presents bit `k`, event `11 + 6*k` is its shift
edge, event `14 + 6*k` its trailing `DATA_LO`; the latch edge is event `10 + 48*L`, the last but
one. (A list's first event has index 0.) -/
def Obligations.TracePositions : Prop :=
  ∀ (s : State) (w : CommandWord) (data : List Byte), CallGoesWell s w data →
    ∃ t, runs (12 + 48 * data.length) s = some t
      ∧ (∀ k < 8 * data.length,
          t.trace[8 + 6 * k]? = some (okPin .data (if streamBit data k then .hi else .lo))
            ∧ t.trace[9 + 6 * k]? = some (.wait 1#8)
            ∧ t.trace[10 + 6 * k]? = some (okPin .shift .hi)
            ∧ t.trace[11 + 6 * k]? = some (.wait 1#8)
            ∧ t.trace[12 + 6 * k]? = some (okPin .shift .lo)
            ∧ t.trace[13 + 6 * k]? = some (okPin .data .lo))
      ∧ t.trace[8 + 48 * data.length]? = some (.wait 1#8)
      ∧ t.trace[9 + 48 * data.length]? = some (okPin .latch .hi)
      ∧ t.trace[10 + 48 * data.length]? = some (.wait 1#8)

/-- R174: every call ends after at most `11 + 48 * L` steps, whatever the lines answer, and leaves a
response on the command port (R114). -/
def Obligations.EveryCallEnds : Prop :=
  ∀ s : State, s.Legal → s.xp.phase ≠ .idle →
    ∃ n t, n ≤ 11 + 48 * s.data.length ∧ runs n s = some t ∧ t.xp = .rest ∧ t.response.isSome

/-- R236: a chip that clears on the level and one that clears on the edge go through a call alike: they
differ at most in the shift register, and only between `S2A` and `S2B`. The two are set beside each other
under the same draws (log 5). -/
def Obligations.ClearModesAgree : Prop :=
  ∀ s t s' : State, s.Legal → ModesAgree s t → step s = .next s' →
    ∃ t', step t = .next t' ∧ ModesAgree s' t'

/-- R34, R36, R178: wires, chip and what earlier calls left have no part in the trace: two states of the
same call go the same way. -/
def Obligations.TraceIgnoresWiresAndChip : Prop :=
  ∀ s t : State, SameCall s t → SameOutcome (step s) (step t)

/-- R268: the chip's outputs do not change while a frame is being loaded; in a call they change at `S4B`
only, if no pin operation fails (R204). -/
def Obligations.OutputsChangeAtLatchOnly : Prop :=
  ∀ s t : State, s.xp.phase ≠ .idle → step s = .next t → t.out ≠ s.out →
    s.xp.phase = .s4b ∨ ∃ e, s.answer = .err e ∧ CallAnswered (.err e) s t

/-- R114: a call is answered at exactly two places: after the wait of `S4C`, with `Ok`, and where a pin
operation has been answered `err(e)`, with `Err(e)`; the micro-operation of that step is the trace's
last event. No other step of a call changes what is on the command port. -/
def Obligations.ResponseAtTwoPlaces : Prop :=
  ∀ s t : State, s.xp.phase ≠ .idle → step s = .next t →
    (t.xp.phase ≠ .idle ∧ CallGoesOn s t)
    ∨ (s.xp.phase = .s4c ∧ CallAnswered .ok s t ∧ t.trace = s.trace ++ [.wait delayUnit])
    ∨ ∃ l v e, s.answer = .err e ∧ CallAnswered (.err e) s t
        ∧ t.trace = s.trace ++ [.pin l v (.err e)]

/-- R131: the answer of a line is `ok` or `err(e)` with `e` in `E`, only `ok` where `E` is empty; every
one of them can come at any pin operation; and which one comes does not depend on the sequencer's
state, the wires or the chip. -/
def Obligations.AnswersAreDraws : Prop :=
  ∀ s : State,
    (s.answer = .ok ∨ ∃ e, s.cfg.errs.contains e = true ∧ s.answer = .err e)
    ∧ (s.cfg.errs.isEmpty = true → s.answer = .ok)
    ∧ (∃ more, State.answer { s with answers := more } = .ok)
    ∧ (∀ e, s.cfg.errs.contains e = true → ∃ more, State.answer { s with answers := more } = .err e)
    ∧ ∀ t : State, t.cfg.errs = s.cfg.errs → t.answers = s.answers → t.asked = s.asked →
        t.answer = s.answer

/-- R7, R21: the parameters are no state: no step changes them (log 1). -/
def Obligations.ParametersNeverChange : Prop :=
  ∀ s t : State, step s = .next t → t.cfg = s.cfg

/-- R59, R31, R130, R139: a step of a call touches the line of its phase's pin operation and no other: that
line has the level asked for, or is `Unknown` where the operation was answered `err`, and the other three
keep theirs; a step whose phase issues no pin operation leaves all four. -/
def Obligations.OneLineAtATime : Prop :=
  ∀ s t : State, s.xp.phase ≠ .idle → step s = .next t →
    (∀ (l : Line) (v : Level), phasePin s.data s.xp = some (l, v) →
        (∀ k : Line, k ≠ l → t.wires.get k = s.wires.get k)
          ∧ (s.answer = .ok → t.wires.get l = Level.onWire v)
          ∧ ∀ e, s.answer = .err e → t.wires.get l = .unknown)
      ∧ (phasePin s.data s.xp = none → t.wires = s.wires)

/-- R117, R122, R151: while the block is idle no step issues a micro-operation: the trace is as it was or,
after a command or `reset`, empty, and the wires change only by a `drive` or a `reset` of the host. -/
def Obligations.IdleBlockIsSilent : Prop :=
  ∀ s t : State, s.xp.phase = .idle → step s = .next t →
    (t.trace = s.trace ∨ t.trace = []) ∧ t.asked = s.asked ∧ t.answers = s.answers
      ∧ (t.wires = s.wires ∨ s.host.head? = some (.drive t.wires) ∨ s.host.head? = some .reset)
end

