-- ==== Sys2Proof/Laws/State.lean ====
section
/-!
SUPPORT. One lemma per field per update of the state, true by unfolding, so that no proof unfolds a record
update.
-/

namespace Sys2Proof.Machine

variable (s : State)

/-! `State.setWire` -/

@[simp] theorem State.setWire_cfg (l : Line) (v : WireLevel) : (s.setWire l v).cfg = s.cfg := rfl
@[simp] theorem State.setWire_xp (l : Line) (v : WireLevel) : (s.setWire l v).xp = s.xp := rfl
@[simp] theorem State.setWire_variant (l : Line) (v : WireLevel) : (s.setWire l v).variant = s.variant := rfl
@[simp] theorem State.setWire_data (l : Line) (v : WireLevel) : (s.setWire l v).data = s.data := rfl
@[simp] theorem State.setWire_wires (l : Line) (v : WireLevel) : (s.setWire l v).wires = s.wires.set l v := rfl
@[simp] theorem State.setWire_sr (l : Line) (v : WireLevel) : (s.setWire l v).sr = s.sr := rfl
@[simp] theorem State.setWire_out (l : Line) (v : WireLevel) : (s.setWire l v).out = s.out := rfl
@[simp] theorem State.setWire_trace (l : Line) (v : WireLevel) : (s.setWire l v).trace = s.trace := rfl
@[simp] theorem State.setWire_response (l : Line) (v : WireLevel) : (s.setWire l v).response = s.response := rfl
@[simp] theorem State.setWire_host (l : Line) (v : WireLevel) : (s.setWire l v).host = s.host := rfl
@[simp] theorem State.setWire_answers (l : Line) (v : WireLevel) : (s.setWire l v).answers = s.answers := rfl
@[simp] theorem State.setWire_asked (l : Line) (v : WireLevel) : (s.setWire l v).asked = s.asked := rfl
@[simp] theorem State.setWire_draws (l : Line) (v : WireLevel) : (s.setWire l v).draws = s.draws := rfl

/-! `State.record` -/

@[simp] theorem State.record_cfg (ev : Event) : (s.record ev).cfg = s.cfg := rfl
@[simp] theorem State.record_xp (ev : Event) : (s.record ev).xp = s.xp := rfl
@[simp] theorem State.record_variant (ev : Event) : (s.record ev).variant = s.variant := rfl
@[simp] theorem State.record_data (ev : Event) : (s.record ev).data = s.data := rfl
@[simp] theorem State.record_wires (ev : Event) : (s.record ev).wires = s.wires := rfl
@[simp] theorem State.record_sr (ev : Event) : (s.record ev).sr = s.sr := rfl
@[simp] theorem State.record_out (ev : Event) : (s.record ev).out = s.out := rfl
@[simp] theorem State.record_trace (ev : Event) : (s.record ev).trace = s.trace ++ [ev] := rfl
@[simp] theorem State.record_response (ev : Event) : (s.record ev).response = s.response := rfl
@[simp] theorem State.record_host (ev : Event) : (s.record ev).host = s.host := rfl
@[simp] theorem State.record_answers (ev : Event) : (s.record ev).answers = s.answers := rfl
@[simp] theorem State.record_asked (ev : Event) : (s.record ev).asked = s.asked := rfl
@[simp] theorem State.record_draws (ev : Event) : (s.record ev).draws = s.draws := rfl

/-! `State.goto` -/

@[simp] theorem State.goto_cfg (x : ExecPoint) : (s.goto x).cfg = s.cfg := rfl
@[simp] theorem State.goto_xp (x : ExecPoint) : (s.goto x).xp = x := rfl
@[simp] theorem State.goto_variant (x : ExecPoint) : (s.goto x).variant = s.variant := rfl
@[simp] theorem State.goto_data (x : ExecPoint) : (s.goto x).data = s.data := rfl
@[simp] theorem State.goto_wires (x : ExecPoint) : (s.goto x).wires = s.wires := rfl
@[simp] theorem State.goto_sr (x : ExecPoint) : (s.goto x).sr = s.sr := rfl
@[simp] theorem State.goto_out (x : ExecPoint) : (s.goto x).out = s.out := rfl
@[simp] theorem State.goto_trace (x : ExecPoint) : (s.goto x).trace = s.trace := rfl
@[simp] theorem State.goto_response (x : ExecPoint) : (s.goto x).response = s.response := rfl
@[simp] theorem State.goto_host (x : ExecPoint) : (s.goto x).host = s.host := rfl
@[simp] theorem State.goto_answers (x : ExecPoint) : (s.goto x).answers = s.answers := rfl
@[simp] theorem State.goto_asked (x : ExecPoint) : (s.goto x).asked = s.asked := rfl
@[simp] theorem State.goto_draws (x : ExecPoint) : (s.goto x).draws = s.draws := rfl

/-! `State.takeAnswer` -/

@[simp] theorem State.takeAnswer_cfg : (s.takeAnswer).cfg = s.cfg := rfl
@[simp] theorem State.takeAnswer_xp : (s.takeAnswer).xp = s.xp := rfl
@[simp] theorem State.takeAnswer_variant : (s.takeAnswer).variant = s.variant := rfl
@[simp] theorem State.takeAnswer_data : (s.takeAnswer).data = s.data := rfl
@[simp] theorem State.takeAnswer_wires : (s.takeAnswer).wires = s.wires := rfl
@[simp] theorem State.takeAnswer_sr : (s.takeAnswer).sr = s.sr := rfl
@[simp] theorem State.takeAnswer_out : (s.takeAnswer).out = s.out := rfl
@[simp] theorem State.takeAnswer_trace : (s.takeAnswer).trace = s.trace := rfl
@[simp] theorem State.takeAnswer_response : (s.takeAnswer).response = s.response := rfl
@[simp] theorem State.takeAnswer_host : (s.takeAnswer).host = s.host := rfl
@[simp] theorem State.takeAnswer_answers : (s.takeAnswer).answers = s.answers.tail := rfl
@[simp] theorem State.takeAnswer_asked : (s.takeAnswer).asked = s.asked + 1 := rfl
@[simp] theorem State.takeAnswer_draws : (s.takeAnswer).draws = s.draws := rfl

/-! `State.anySr` -/

@[simp] theorem State.anySr_cfg : (s.anySr).cfg = s.cfg := rfl
@[simp] theorem State.anySr_xp : (s.anySr).xp = s.xp := rfl
@[simp] theorem State.anySr_variant : (s.anySr).variant = s.variant := rfl
@[simp] theorem State.anySr_data : (s.anySr).data = s.data := rfl
@[simp] theorem State.anySr_wires : (s.anySr).wires = s.wires := rfl
@[simp] theorem State.anySr_sr : (s.anySr).sr = freeStages s.cfg.chipDepth s.draws := rfl
@[simp] theorem State.anySr_out : (s.anySr).out = s.out := rfl
@[simp] theorem State.anySr_trace : (s.anySr).trace = s.trace := rfl
@[simp] theorem State.anySr_response : (s.anySr).response = s.response := rfl
@[simp] theorem State.anySr_host : (s.anySr).host = s.host := rfl
@[simp] theorem State.anySr_answers : (s.anySr).answers = s.answers := rfl
@[simp] theorem State.anySr_asked : (s.anySr).asked = s.asked := rfl
@[simp] theorem State.anySr_draws : (s.anySr).draws = s.draws + 1 := rfl

/-! `State.anyOut` -/

@[simp] theorem State.anyOut_cfg : (s.anyOut).cfg = s.cfg := rfl
@[simp] theorem State.anyOut_xp : (s.anyOut).xp = s.xp := rfl
@[simp] theorem State.anyOut_variant : (s.anyOut).variant = s.variant := rfl
@[simp] theorem State.anyOut_data : (s.anyOut).data = s.data := rfl
@[simp] theorem State.anyOut_wires : (s.anyOut).wires = s.wires := rfl
@[simp] theorem State.anyOut_sr : (s.anyOut).sr = s.sr := rfl
@[simp] theorem State.anyOut_out : (s.anyOut).out = freeStages s.cfg.chipDepth s.draws := rfl
@[simp] theorem State.anyOut_trace : (s.anyOut).trace = s.trace := rfl
@[simp] theorem State.anyOut_response : (s.anyOut).response = s.response := rfl
@[simp] theorem State.anyOut_host : (s.anyOut).host = s.host := rfl
@[simp] theorem State.anyOut_answers : (s.anyOut).answers = s.answers := rfl
@[simp] theorem State.anyOut_asked : (s.anyOut).asked = s.asked := rfl
@[simp] theorem State.anyOut_draws : (s.anyOut).draws = s.draws + 1 := rfl

/-! `State.anyChip` -/

@[simp] theorem State.anyChip_cfg : (s.anyChip).cfg = s.cfg := rfl
@[simp] theorem State.anyChip_xp : (s.anyChip).xp = s.xp := rfl
@[simp] theorem State.anyChip_variant : (s.anyChip).variant = s.variant := rfl
@[simp] theorem State.anyChip_data : (s.anyChip).data = s.data := rfl
@[simp] theorem State.anyChip_wires : (s.anyChip).wires = s.wires := rfl
@[simp] theorem State.anyChip_sr : (s.anyChip).sr = freeStages s.cfg.chipDepth s.draws := rfl
@[simp] theorem State.anyChip_out : (s.anyChip).out = freeStages s.cfg.chipDepth (s.draws + 1) := rfl
@[simp] theorem State.anyChip_trace : (s.anyChip).trace = s.trace := rfl
@[simp] theorem State.anyChip_response : (s.anyChip).response = s.response := rfl
@[simp] theorem State.anyChip_host : (s.anyChip).host = s.host := rfl
@[simp] theorem State.anyChip_answers : (s.anyChip).answers = s.answers := rfl
@[simp] theorem State.anyChip_asked : (s.anyChip).asked = s.asked := rfl
@[simp] theorem State.anyChip_draws : (s.anyChip).draws = s.draws + 2 := rfl

/-! `State.dropOperands` -/

@[simp] theorem State.dropOperands_cfg : (s.dropOperands).cfg = s.cfg := rfl
@[simp] theorem State.dropOperands_xp : (s.dropOperands).xp = s.xp := rfl
@[simp] theorem State.dropOperands_variant : (s.dropOperands).variant = Config.freeVariant s.draws := rfl
@[simp] theorem State.dropOperands_data : (s.dropOperands).data = Config.freeFrame s.draws := rfl
@[simp] theorem State.dropOperands_wires : (s.dropOperands).wires = s.wires := rfl
@[simp] theorem State.dropOperands_sr : (s.dropOperands).sr = s.sr := rfl
@[simp] theorem State.dropOperands_out : (s.dropOperands).out = s.out := rfl
@[simp] theorem State.dropOperands_trace : (s.dropOperands).trace = s.trace := rfl
@[simp] theorem State.dropOperands_response : (s.dropOperands).response = s.response := rfl
@[simp] theorem State.dropOperands_host : (s.dropOperands).host = s.host := rfl
@[simp] theorem State.dropOperands_answers : (s.dropOperands).answers = s.answers := rfl
@[simp] theorem State.dropOperands_asked : (s.dropOperands).asked = s.asked := rfl
@[simp] theorem State.dropOperands_draws : (s.dropOperands).draws = s.draws + 1 := rfl

/-! `State.respond` -/

@[simp] theorem State.respond_cfg (r : Response) : (s.respond r).cfg = s.cfg := rfl
@[simp] theorem State.respond_xp (r : Response) : (s.respond r).xp = .rest := rfl
@[simp] theorem State.respond_variant (r : Response) : (s.respond r).variant = Config.freeVariant s.draws := rfl
@[simp] theorem State.respond_data (r : Response) : (s.respond r).data = Config.freeFrame s.draws := rfl
@[simp] theorem State.respond_wires (r : Response) : (s.respond r).wires = s.wires := rfl
@[simp] theorem State.respond_sr (r : Response) : (s.respond r).sr = s.sr := rfl
@[simp] theorem State.respond_out (r : Response) : (s.respond r).out = s.out := rfl
@[simp] theorem State.respond_trace (r : Response) : (s.respond r).trace = s.trace := rfl
@[simp] theorem State.respond_response (r : Response) : (s.respond r).response = some (s.portResponse r) := rfl
@[simp] theorem State.respond_host (r : Response) : (s.respond r).host = s.host := rfl
@[simp] theorem State.respond_answers (r : Response) : (s.respond r).answers = s.answers := rfl
@[simp] theorem State.respond_asked (r : Response) : (s.respond r).asked = s.asked := rfl
@[simp] theorem State.respond_draws (r : Response) : (s.respond r).draws = s.draws + 1 := rfl

/-! `State.startCall` -/

@[simp] theorem State.startCall_cfg (v : Variant) (frame : List Byte) : (s.startCall v frame).cfg = s.cfg := rfl
@[simp] theorem State.startCall_xp (v : Variant) (frame : List Byte) : (s.startCall v frame).xp = ⟨.s1a, 0, 0#3⟩ := rfl
@[simp] theorem State.startCall_variant (v : Variant) (frame : List Byte) : (s.startCall v frame).variant = v := rfl
@[simp] theorem State.startCall_data (v : Variant) (frame : List Byte) : (s.startCall v frame).data = frame := rfl
@[simp] theorem State.startCall_wires (v : Variant) (frame : List Byte) : (s.startCall v frame).wires = s.wires := rfl
@[simp] theorem State.startCall_sr (v : Variant) (frame : List Byte) : (s.startCall v frame).sr = s.sr := rfl
@[simp] theorem State.startCall_out (v : Variant) (frame : List Byte) : (s.startCall v frame).out = s.out := rfl
@[simp] theorem State.startCall_trace (v : Variant) (frame : List Byte) : (s.startCall v frame).trace = [] := rfl
@[simp] theorem State.startCall_response (v : Variant) (frame : List Byte) : (s.startCall v frame).response = none := rfl
@[simp] theorem State.startCall_host (v : Variant) (frame : List Byte) : (s.startCall v frame).host = s.host := rfl
@[simp] theorem State.startCall_answers (v : Variant) (frame : List Byte) : (s.startCall v frame).answers = s.answers := rfl
@[simp] theorem State.startCall_asked (v : Variant) (frame : List Byte) : (s.startCall v frame).asked = s.asked := rfl
@[simp] theorem State.startCall_draws (v : Variant) (frame : List Byte) : (s.startCall v frame).draws = s.draws := rfl

/-! `State.received` -/

@[simp] theorem State.received_cfg : (s.received).cfg = s.cfg := rfl
@[simp] theorem State.received_xp : (s.received).xp = s.xp := rfl
@[simp] theorem State.received_variant : (s.received).variant = s.variant := rfl
@[simp] theorem State.received_data : (s.received).data = s.data := rfl
@[simp] theorem State.received_wires : (s.received).wires = s.wires := rfl
@[simp] theorem State.received_sr : (s.received).sr = s.sr := rfl
@[simp] theorem State.received_out : (s.received).out = s.out := rfl
@[simp] theorem State.received_trace : (s.received).trace = s.trace := rfl
@[simp] theorem State.received_response : (s.received).response = none := rfl
@[simp] theorem State.received_host : (s.received).host = s.host := rfl
@[simp] theorem State.received_answers : (s.received).answers = s.answers := rfl
@[simp] theorem State.received_asked : (s.received).asked = s.asked := rfl
@[simp] theorem State.received_draws : (s.received).draws = s.draws := rfl

/-! `State.driven` -/

@[simp] theorem State.driven_cfg (w : Wires) : (s.driven w).cfg = s.cfg := rfl
@[simp] theorem State.driven_xp (w : Wires) : (s.driven w).xp = s.xp := rfl
@[simp] theorem State.driven_variant (w : Wires) : (s.driven w).variant = s.variant := rfl
@[simp] theorem State.driven_data (w : Wires) : (s.driven w).data = s.data := rfl
@[simp] theorem State.driven_wires (w : Wires) : (s.driven w).wires = w := rfl
@[simp] theorem State.driven_sr (w : Wires) : (s.driven w).sr = freeStages s.cfg.chipDepth s.draws := rfl
@[simp] theorem State.driven_out (w : Wires) : (s.driven w).out = freeStages s.cfg.chipDepth (s.draws + 1) := rfl
@[simp] theorem State.driven_trace (w : Wires) : (s.driven w).trace = s.trace := rfl
@[simp] theorem State.driven_response (w : Wires) : (s.driven w).response = s.response := rfl
@[simp] theorem State.driven_host (w : Wires) : (s.driven w).host = s.host := rfl
@[simp] theorem State.driven_answers (w : Wires) : (s.driven w).answers = s.answers := rfl
@[simp] theorem State.driven_asked (w : Wires) : (s.driven w).asked = s.asked := rfl
@[simp] theorem State.driven_draws (w : Wires) : (s.driven w).draws = s.draws + 2 := rfl

/-! `State.resetEvent` -/

@[simp] theorem State.resetEvent_cfg : (s.resetEvent).cfg = s.cfg := rfl
@[simp] theorem State.resetEvent_xp : (s.resetEvent).xp = .rest := rfl
@[simp] theorem State.resetEvent_variant : (s.resetEvent).variant = Config.freeVariant (s.draws + 2) := rfl
@[simp] theorem State.resetEvent_data : (s.resetEvent).data = Config.freeFrame (s.draws + 2) := rfl
@[simp] theorem State.resetEvent_wires : (s.resetEvent).wires = ⟨.unknown, .unknown, .unknown, .unknown⟩ := rfl
@[simp] theorem State.resetEvent_sr : (s.resetEvent).sr = freeStages s.cfg.chipDepth s.draws := rfl
@[simp] theorem State.resetEvent_out : (s.resetEvent).out = freeStages s.cfg.chipDepth (s.draws + 1) := rfl
@[simp] theorem State.resetEvent_trace : (s.resetEvent).trace = [] := rfl
@[simp] theorem State.resetEvent_response : (s.resetEvent).response = none := rfl
@[simp] theorem State.resetEvent_host : (s.resetEvent).host = s.host := rfl
@[simp] theorem State.resetEvent_answers : (s.resetEvent).answers = s.answers := rfl
@[simp] theorem State.resetEvent_asked : (s.resetEvent).asked = s.asked := rfl
@[simp] theorem State.resetEvent_draws : (s.resetEvent).draws = s.draws + 3 := rfl

/-! `State.clearSr` -/

@[simp] theorem State.clearSr_cfg : (s.clearSr).cfg = s.cfg := rfl
@[simp] theorem State.clearSr_xp : (s.clearSr).xp = s.xp := rfl
@[simp] theorem State.clearSr_variant : (s.clearSr).variant = s.variant := rfl
@[simp] theorem State.clearSr_data : (s.clearSr).data = s.data := rfl
@[simp] theorem State.clearSr_wires : (s.clearSr).wires = s.wires := rfl
@[simp] theorem State.clearSr_sr : (s.clearSr).sr = zeroStages s.cfg.chipDepth := rfl
@[simp] theorem State.clearSr_out : (s.clearSr).out = s.out := rfl
@[simp] theorem State.clearSr_trace : (s.clearSr).trace = s.trace := rfl
@[simp] theorem State.clearSr_response : (s.clearSr).response = s.response := rfl
@[simp] theorem State.clearSr_host : (s.clearSr).host = s.host := rfl
@[simp] theorem State.clearSr_answers : (s.clearSr).answers = s.answers := rfl
@[simp] theorem State.clearSr_asked : (s.clearSr).asked = s.asked := rfl
@[simp] theorem State.clearSr_draws : (s.clearSr).draws = s.draws := rfl

/-! `State.latchRise` -/

@[simp] theorem State.latchRise_cfg : (s.latchRise).cfg = s.cfg := rfl
@[simp] theorem State.latchRise_xp : (s.latchRise).xp = s.xp := rfl
@[simp] theorem State.latchRise_variant : (s.latchRise).variant = s.variant := rfl
@[simp] theorem State.latchRise_data : (s.latchRise).data = s.data := rfl
@[simp] theorem State.latchRise_wires : (s.latchRise).wires = s.wires := rfl
@[simp] theorem State.latchRise_sr : (s.latchRise).sr = s.sr := rfl
@[simp] theorem State.latchRise_out : (s.latchRise).out = s.sr := rfl
@[simp] theorem State.latchRise_trace : (s.latchRise).trace = s.trace := rfl
@[simp] theorem State.latchRise_response : (s.latchRise).response = s.response := rfl
@[simp] theorem State.latchRise_host : (s.latchRise).host = s.host := rfl
@[simp] theorem State.latchRise_answers : (s.latchRise).answers = s.answers := rfl
@[simp] theorem State.latchRise_asked : (s.latchRise).asked = s.asked := rfl
@[simp] theorem State.latchRise_draws : (s.latchRise).draws = s.draws := rfl

/-! `State.latchMaybe` -/

@[simp] theorem State.latchMaybe_cfg : (s.latchMaybe).cfg = s.cfg := rfl
@[simp] theorem State.latchMaybe_xp : (s.latchMaybe).xp = s.xp := rfl
@[simp] theorem State.latchMaybe_variant : (s.latchMaybe).variant = s.variant := rfl
@[simp] theorem State.latchMaybe_data : (s.latchMaybe).data = s.data := rfl
@[simp] theorem State.latchMaybe_wires : (s.latchMaybe).wires = s.wires := rfl
@[simp] theorem State.latchMaybe_sr : (s.latchMaybe).sr = s.sr := rfl
@[simp] theorem State.latchMaybe_out : (s.latchMaybe).out = if Config.freeBit s.draws 0 then s.sr else s.out := rfl
@[simp] theorem State.latchMaybe_trace : (s.latchMaybe).trace = s.trace := rfl
@[simp] theorem State.latchMaybe_response : (s.latchMaybe).response = s.response := rfl
@[simp] theorem State.latchMaybe_host : (s.latchMaybe).host = s.host := rfl
@[simp] theorem State.latchMaybe_answers : (s.latchMaybe).answers = s.answers := rfl
@[simp] theorem State.latchMaybe_asked : (s.latchMaybe).asked = s.asked := rfl
@[simp] theorem State.latchMaybe_draws : (s.latchMaybe).draws = s.draws + 1 := rfl

end Sys2Proof.Machine
end

