-- ==== Sys2Proof/Laws/Ops.lean ====
section
/-!
SUPPORT. One lemma per shared operation that says what it can do: wires, answers, the chip, `Pin`, `Wait`,
the advance of the execution point.
-/

namespace Sys2Proof.Machine

/-! Wires -/

@[simp] theorem Wires.get_set_same (w : Wires) (l : Line) (v : WireLevel) : (w.set l v).get l = v := by
  cases l <;> rfl

theorem Wires.get_set_other (w : Wires) {l k : Line} (v : WireLevel) (h : k ≠ l) :
    (w.set l v).get k = w.get k := by
  cases l <;> cases k <;> first | rfl | exact absurd rfl h

@[simp] theorem Wires.set_clr (w : Wires) (v : WireLevel) : w.set .clr v = { w with clr := v } := rfl
@[simp] theorem Wires.set_shift (w : Wires) (v : WireLevel) : w.set .shift v = { w with shift := v } := rfl
@[simp] theorem Wires.set_latch (w : Wires) (v : WireLevel) : w.set .latch v = { w with latch := v } := rfl
@[simp] theorem Wires.set_data (w : Wires) (v : WireLevel) : w.set .data v = { w with data := v } := rfl
@[simp] theorem Wires.get_clr (w : Wires) : w.get .clr = w.clr := rfl
@[simp] theorem Wires.get_shift (w : Wires) : w.get .shift = w.shift := rfl
@[simp] theorem Wires.get_latch (w : Wires) : w.get .latch = w.latch := rfl
@[simp] theorem Wires.get_data (w : Wires) : w.get .data = w.data := rfl

@[simp] theorem Level.onWire_lo : Level.onWire .lo = .lo := rfl
@[simp] theorem Level.onWire_hi : Level.onWire .hi = .hi := rfl

/-! Widths -/

@[simp] theorem freeStages_length (depth k : Nat) : (freeStages depth k).length = depth := by
  simp [freeStages]

@[simp] theorem zeroStages_length (depth : Nat) : (zeroStages depth).length = depth := by
  simp [zeroStages]

theorem shiftIn_length {depth : Nat} (b : Bool) {sr : List Bool} (h : sr.length = depth) :
    (shiftIn depth b sr).length = depth := by
  simp [shiftIn, h]

/-! Answers -/

theorem Answer.admitted_cases (errs : ErrType) (a : Answer) :
    Answer.admitted errs a = .ok ∨ ∃ e, errs.contains e = true ∧ Answer.admitted errs a = .err e := by
  cases a with
  | ok => left; rfl
  | err e => by_cases h : errs.contains e = true <;> simp [Answer.admitted, Answer.wellFormed, h]

theorem ErrType.contains_of_isEmpty {errs : ErrType} (h : errs.isEmpty = true) (e : ErrCode) :
    errs.contains e = false := by
  cases errs <;> simp_all [ErrType.isEmpty, ErrType.contains]

/-- Where `E` is empty every answer is `ok` (R131). -/
theorem State.answerAt_of_isEmpty {s : State} (h : s.cfg.errs.isEmpty = true) (k : Nat) :
    s.answerAt k = .ok := by
  rcases Answer.admitted_cases s.cfg.errs ((s.answers[k]?).getD (Config.lineAnswer (s.asked + k)))
    with h' | ⟨e, he, -⟩
  · exact h'
  · rw [ErrType.contains_of_isEmpty h] at he; cases he

/-- The answers after one has been given. -/
theorem State.answerAt_of_taken {s t : State} (hc : t.cfg.errs = s.cfg.errs)
    (ha : t.answers = s.answers.tail) (hn : t.asked = s.asked + 1) (k : Nat) :
    t.answerAt k = s.answerAt (k + 1) := by
  simp only [State.answerAt, hc, ha, hn, List.getElem?_tail]
  congr 3
  omega

/-- The answer depends on the error type, the fixed answers and the count alone (R131). -/
theorem State.answerAt_congr {s t : State} (hc : t.cfg.errs = s.cfg.errs)
    (ha : t.answers = s.answers) (hn : t.asked = s.asked) (k : Nat) :
    t.answerAt k = s.answerAt k := by
  simp only [State.answerAt, hc, ha, hn]

/-! The chip -/

/-- What `chip_edge` can do: change `sr`, `out` and the count of draws, and nothing else. -/
theorem State.chipEdge_frame (s : State) (l : Line) (old : WireLevel) (new : Level) :
    ∃ sr out draws, s.chipEdge l old new = { s with sr := sr, out := out, draws := draws } := by
  cases l <;> cases old <;> cases new <;>
    simp only [State.chipEdge, clockChange, State.clearDriven, State.shiftRise, State.shiftData,
      State.clearSr, State.anySr, State.latchRise, State.latchMaybe]
  all_goals (repeat' split) <;> exact ⟨_, _, _, rfl⟩

theorem State.chipEdge_sized (s : State) (l : Line) (old : WireLevel) (new : Level)
    (hs : s.sr.length = s.cfg.chipDepth) (ho : s.out.length = s.cfg.chipDepth) :
    (s.chipEdge l old new).sr.length = s.cfg.chipDepth
      ∧ (s.chipEdge l old new).out.length = s.cfg.chipDepth := by
  have hb : ∀ b, (shiftIn s.cfg.chipDepth b s.sr).length = s.cfg.chipDepth := fun b =>
    shiftIn_length b hs
  cases l <;> cases old <;> cases new <;>
    simp only [State.chipEdge, clockChange, State.clearDriven, State.shiftRise, State.shiftData,
      State.latchRise, State.latchMaybe, State.clearSr, State.anySr]
  all_goals (repeat' split) <;> first | exact ⟨hb _, ho⟩ | simp_all

/-! `Pin(l, v)` -/

section PinDone
variable (s : State) (l : Line) (v : Level)

/-- What a pin operation answered `ok` leaves alone, beside its wire, its event, its answer and the
chip (R130). -/
theorem State.pinDone_frame :
    ∃ sr out draws, s.pinDone l v =
      { s with
        wires := s.wires.set l (Level.onWire v)
        trace := s.trace ++ [.pin l v .ok]
        answers := s.answers.tail
        asked := s.asked + 1
        sr := sr
        out := out
        draws := draws } := by
  obtain ⟨sr, out, draws, h⟩ := State.chipEdge_frame
    ((s.takeAnswer.setWire l (Level.onWire v)).record (.pin l v .ok)) l (s.wires.get l) v
  exact ⟨sr, out, draws, h⟩

@[simp] theorem State.pinDone_cfg : (s.pinDone l v).cfg = s.cfg := by
  obtain ⟨_, _, _, h⟩ := s.pinDone_frame l v; rw [h]
@[simp] theorem State.pinDone_xp : (s.pinDone l v).xp = s.xp := by
  obtain ⟨_, _, _, h⟩ := s.pinDone_frame l v; rw [h]
@[simp] theorem State.pinDone_variant : (s.pinDone l v).variant = s.variant := by
  obtain ⟨_, _, _, h⟩ := s.pinDone_frame l v; rw [h]
@[simp] theorem State.pinDone_data : (s.pinDone l v).data = s.data := by
  obtain ⟨_, _, _, h⟩ := s.pinDone_frame l v; rw [h]
@[simp] theorem State.pinDone_wires : (s.pinDone l v).wires = s.wires.set l (Level.onWire v) := by
  obtain ⟨_, _, _, h⟩ := s.pinDone_frame l v; rw [h]
@[simp] theorem State.pinDone_trace : (s.pinDone l v).trace = s.trace ++ [.pin l v .ok] := by
  obtain ⟨_, _, _, h⟩ := s.pinDone_frame l v; rw [h]
@[simp] theorem State.pinDone_response : (s.pinDone l v).response = s.response := by
  obtain ⟨_, _, _, h⟩ := s.pinDone_frame l v; rw [h]
@[simp] theorem State.pinDone_host : (s.pinDone l v).host = s.host := by
  obtain ⟨_, _, _, h⟩ := s.pinDone_frame l v; rw [h]
@[simp] theorem State.pinDone_answers : (s.pinDone l v).answers = s.answers.tail := by
  obtain ⟨_, _, _, h⟩ := s.pinDone_frame l v; rw [h]
@[simp] theorem State.pinDone_asked : (s.pinDone l v).asked = s.asked + 1 := by
  obtain ⟨_, _, _, h⟩ := s.pinDone_frame l v; rw [h]

theorem State.pinDone_sized (hs : s.sr.length = s.cfg.chipDepth) (ho : s.out.length = s.cfg.chipDepth) :
    (s.pinDone l v).sr.length = s.cfg.chipDepth ∧ (s.pinDone l v).out.length = s.cfg.chipDepth :=
  State.chipEdge_sized _ l _ v hs ho

end PinDone

/-! What the chip holds after a pin operation answered `ok`, by line and level (R232 to R237) -/

@[simp] theorem State.pinDone_clrHi_sr (s : State) : (s.pinDone .clr .hi).sr = s.sr := rfl
@[simp] theorem State.pinDone_clrHi_out (s : State) : (s.pinDone .clr .hi).out = s.out := rfl

@[simp] theorem State.pinDone_data_sr (s : State) (v : Level) : (s.pinDone .data v).sr = s.sr := rfl
@[simp] theorem State.pinDone_data_out (s : State) (v : Level) : (s.pinDone .data v).out = s.out := rfl

@[simp] theorem State.pinDone_shiftLo_sr (s : State) : (s.pinDone .shift .lo).sr = s.sr := by
  cases h : s.wires.shift <;> simp [State.pinDone, State.chipEdge, clockChange, h]
@[simp] theorem State.pinDone_shiftLo_out (s : State) : (s.pinDone .shift .lo).out = s.out := by
  cases h : s.wires.shift <;> simp [State.pinDone, State.chipEdge, clockChange, h]
@[simp] theorem State.pinDone_latchLo_sr (s : State) : (s.pinDone .latch .lo).sr = s.sr := by
  cases h : s.wires.latch <;> simp [State.pinDone, State.chipEdge, clockChange, h]
@[simp] theorem State.pinDone_latchLo_out (s : State) : (s.pinDone .latch .lo).out = s.out := by
  cases h : s.wires.latch <;> simp [State.pinDone, State.chipEdge, clockChange, h]

/-- `CLR_LO`: the clear level acts at once in `level` mode (R234 part a). -/
theorem State.pinDone_clrLo_sr (s : State) :
    (s.pinDone .clr .lo).sr =
      if s.cfg.clearMode = .level then zeroStages s.cfg.chipDepth else s.sr := by
  cases h : s.cfg.clearMode <;> simp [State.pinDone, State.chipEdge, State.clearDriven, h]

@[simp] theorem State.pinDone_clrLo_out (s : State) : (s.pinDone .clr .lo).out = s.out := by
  cases h : s.cfg.clearMode <;> simp [State.pinDone, State.chipEdge, State.clearDriven, h]

/-- No operation on the shift clock changes `out` (R233, R234, R237). -/
@[simp] theorem State.pinDone_shift_out (s : State) (v : Level) : (s.pinDone .shift v).out = s.out := by
  cases h : s.wires.shift <;> cases v <;>
    simp only [State.pinDone, State.chipEdge, clockChange, Wires.get_shift, h, State.shiftRise,
      State.shiftData]
  all_goals (repeat' split) <;> rfl

/-- No operation on the latch clock changes `sr` (R235, R237). -/
@[simp] theorem State.pinDone_latch_sr (s : State) (v : Level) : (s.pinDone .latch v).sr = s.sr := by
  cases h : s.wires.latch <;> cases v <;>
    simp [State.pinDone, State.chipEdge, clockChange, h]

/-- A rising edge of the shift clock under clear (R234 part b). -/
theorem State.pinDone_shiftHi_clear {s : State} (h : s.wires.shift = .lo) (hc : s.wires.clr = .lo) :
    (s.pinDone .shift .hi).sr = zeroStages s.cfg.chipDepth := by
  simp [State.pinDone, State.chipEdge, clockChange, State.shiftRise, h, hc]

/-- A rising edge of the shift clock with a known bit on `DATA` (R233). -/
theorem State.pinDone_shiftHi_shift {s : State} {d : Level} (h : s.wires.shift = .lo)
    (hc : s.wires.clr = .hi) (hd : s.wires.data = Level.onWire d) :
    (s.pinDone .shift .hi).sr = shiftIn s.cfg.chipDepth (decide (d = .hi)) s.sr := by
  cases d <;>
    simp [State.pinDone, State.chipEdge, clockChange, State.shiftRise, State.shiftData, h, hc, hd]

/-- A shift clock that was high already (R232). -/
theorem State.pinDone_shiftHi_same {s : State} (h : s.wires.shift = .hi) :
    (s.pinDone .shift .hi).sr = s.sr := by
  simp [State.pinDone, State.chipEdge, clockChange, h]

/-- The latch edge (R235). -/
theorem State.pinDone_latchHi_rise {s : State} (h : s.wires.latch = .lo) :
    (s.pinDone .latch .hi).out = s.sr := by
  simp [State.pinDone, State.chipEdge, clockChange, h]

/-- A latch clock that was high already (R232). -/
theorem State.pinDone_latchHi_same {s : State} (h : s.wires.latch = .hi) :
    (s.pinDone .latch .hi).out = s.out := by
  simp [State.pinDone, State.chipEdge, clockChange, h]

/-! `Pin` and its two answers -/

theorem State.pin_ok {s : State} {l : Line} {v : Level} {k : State → State} (h : s.answer = .ok) :
    s.pin l v k = k (s.pinDone l v) := by
  simp [State.pin, h]

theorem State.pin_err {s : State} {l : Line} {v : Level} {k : State → State} {e : ErrCode}
    (h : s.answer = .err e) : s.pin l v k = s.pinFailed l v e := by
  simp [State.pin, h]

/-- What a failed pin operation does, whole (R130, R132, R200). -/
theorem State.pinFailed_eq (s : State) (l : Line) (v : Level) (e : ErrCode) :
    s.pinFailed l v e =
      { s with
        answers := s.answers.tail
        asked := s.asked + 1
        wires := s.wires.set l .unknown
        trace := s.trace ++ [.pin l v (.err e)]
        sr := freeStages s.cfg.chipDepth s.draws
        out := freeStages s.cfg.chipDepth (s.draws + 1)
        variant := Config.freeVariant (s.draws + 2)
        data := Config.freeFrame (s.draws + 2)
        draws := s.draws + 3
        response := some (s.portResponse (.err e))
        xp := .rest } := rfl

/-! The response -/

/-- All that `respond` puts on the port (R114, R35). -/
theorem State.portResponse_eq (s : State) (r : Response) :
    s.portResponse r =
      if s.xp.phase ≠ .idle ∧ s.variant = .infallible then .completed else r := by
  by_cases h : s.xp.phase = .idle
  · simp [State.portResponse, State.busy, h]
  · cases hv : s.variant <;> simp [State.portResponse, State.busy, h, hv]

/-- While idle `variant` is not read (R35). -/
theorem State.portResponse_idle {s : State} (h : s.xp.phase = .idle) (r : Response) :
    s.portResponse r = r := by
  simp [State.portResponse_eq, h]

/-- In a `SHIFT_OUT` call the response is sent as it is (R114). -/
theorem State.portResponse_shiftOut {s : State} (h : s.variant = .shiftOut) (r : Response) :
    s.portResponse r = r := by
  simp [State.portResponse_eq, h]

/-! The advance -/

theorem State.advance_of_ne {s : State} (h : s.xp.phase ≠ .s4c) :
    s.advance = s.goto (nextPoint s.data.length s.xp) := by
  simp [State.advance, h]

theorem State.advance_of_eq {s : State} (h : s.xp.phase = .s4c) : s.advance = s.respond .ok := by
  simp [State.advance, h]

/-! Traces and the bit stream -/

@[simp] theorem byteBits_length (b : Byte) : (byteBits b).length = 8 := rfl

@[simp] theorem bitEvents_length (b : Bool) : (bitEvents b).length = 6 := rfl

@[simp] theorem opening_length : opening.length = 8 := rfl

@[simp] theorem frameBits_length (data : List Byte) : (frameBits data).length = 8 * data.length := by
  induction data with
  | nil => rfl
  | cons b bs ih => simp only [frameBits, List.flatMap_cons, List.length_append, byteBits_length,
      List.length_cons] at *; omega

/-- The trace of a frame, bit by bit. -/
theorem frameTrace_eq (data : List Byte) :
    frameTrace data = opening ++ (frameBits data).flatMap bitEvents ++ latchPulse := by
  have h : data.flatMap byteEvents = (frameBits data).flatMap bitEvents := by
    induction data with
    | nil => rfl
    | cons b bs ih => simp [frameBits, byteEvents, List.flatMap_append] at *; exact ih
  rw [frameTrace, h]

end Sys2Proof.Machine
end

