-- ==== Sys2Proof/Laws/PerInstr.lean ====
section
/-!
SUPPORT. For every instruction: its word lies in the row that spec/opcode_table.json gives it, by the row's
mask and match.
-/

namespace Sys2Proof.Laws.TableWord

/-- The row's format, mask and match, as spec/opcode_table.json gives them. -/
def row : Instr → Port × Nat × Nat
  | .shiftOut _ => (.command, 0x1, 0x0)
  | .shiftOutInfallible _ => (.command, 0x1, 0x1)
  | .clrLo => (.micro, 0xFFF, 0x000)
  | .clrHi => (.micro, 0xFFF, 0x001)
  | .shiftLo => (.micro, 0xFFF, 0x100)
  | .shiftHi => (.micro, 0xFFF, 0x101)
  | .latchLo => (.micro, 0xFFF, 0x200)
  | .latchHi => (.micro, 0xFFF, 0x201)
  | .dataLo => (.micro, 0xFFF, 0x300)
  | .dataHi => (.micro, 0xFFF, 0x301)
  | .wait _ => (.micro, 0xF00, 0x400)
  | .idle => (.phase, 0x1F, 0x00)
  | .s1a => (.phase, 0x1F, 0x01)
  | .s1b => (.phase, 0x1F, 0x02)
  | .s2a => (.phase, 0x1F, 0x03)
  | .s2b => (.phase, 0x1F, 0x04)
  | .s2c => (.phase, 0x1F, 0x05)
  | .s2d => (.phase, 0x1F, 0x06)
  | .s2e => (.phase, 0x1F, 0x07)
  | .s2f => (.phase, 0x1F, 0x08)
  | .s3a => (.phase, 0x1F, 0x09)
  | .s3b => (.phase, 0x1F, 0x0A)
  | .s3c1 => (.phase, 0x1F, 0x0B)
  | .s3c2 => (.phase, 0x1F, 0x0C)
  | .s3d => (.phase, 0x1F, 0x0D)
  | .s3e => (.phase, 0x1F, 0x0E)
  | .s4a => (.phase, 0x1F, 0x0F)
  | .s4b => (.phase, 0x1F, 0x10)
  | .s4c => (.phase, 0x1F, 0x11)

/-- A word's format and its bits as a number. -/
def bits : Word → Port × Nat
  | .command w _ => (.command, w.toNat)
  | .micro w => (.micro, w.toNat)
  | .phase w => (.phase, w.toNat)

/-- The instruction's word has its row's format, and under the row's mask it is the row's match. -/
def Statement (i : Instr) : Prop :=
  (bits (encode i)).1 = (row i).1 ∧ (bits (encode i)).2 &&& (row i).2.1 = (row i).2.2

theorem shiftOut (data : List Byte) : Statement (.shiftOut data) := by
  simp [Statement, bits, encode, row]
theorem shiftOutInfallible (data : List Byte) : Statement (.shiftOutInfallible data) := by
  simp [Statement, bits, encode, row]
theorem clrLo : Statement .clrLo := ⟨rfl, rfl⟩
theorem clrHi : Statement .clrHi := ⟨rfl, rfl⟩
theorem shiftLo : Statement .shiftLo := ⟨rfl, rfl⟩
theorem shiftHi : Statement .shiftHi := ⟨rfl, rfl⟩
theorem latchLo : Statement .latchLo := ⟨rfl, rfl⟩
theorem latchHi : Statement .latchHi := ⟨rfl, rfl⟩
theorem dataLo : Statement .dataLo := ⟨rfl, rfl⟩
theorem dataHi : Statement .dataHi := ⟨rfl, rfl⟩
theorem wait (n : Byte) : Statement (.wait n) := by
  refine ⟨rfl, ?_⟩
  have h : ∀ n : Byte, (0x4#4 ++ n).toNat &&& 0xF00 = 0x400 := by decide
  exact h n
theorem idle : Statement .idle := ⟨rfl, rfl⟩
theorem s1a : Statement .s1a := ⟨rfl, rfl⟩
theorem s1b : Statement .s1b := ⟨rfl, rfl⟩
theorem s2a : Statement .s2a := ⟨rfl, rfl⟩
theorem s2b : Statement .s2b := ⟨rfl, rfl⟩
theorem s2c : Statement .s2c := ⟨rfl, rfl⟩
theorem s2d : Statement .s2d := ⟨rfl, rfl⟩
theorem s2e : Statement .s2e := ⟨rfl, rfl⟩
theorem s2f : Statement .s2f := ⟨rfl, rfl⟩
theorem s3a : Statement .s3a := ⟨rfl, rfl⟩
theorem s3b : Statement .s3b := ⟨rfl, rfl⟩
theorem s3c1 : Statement .s3c1 := ⟨rfl, rfl⟩
theorem s3c2 : Statement .s3c2 := ⟨rfl, rfl⟩
theorem s3d : Statement .s3d := ⟨rfl, rfl⟩
theorem s3e : Statement .s3e := ⟨rfl, rfl⟩
theorem s4a : Statement .s4a := ⟨rfl, rfl⟩
theorem s4b : Statement .s4b := ⟨rfl, rfl⟩
theorem s4c : Statement .s4c := ⟨rfl, rfl⟩

end Sys2Proof.Laws.TableWord
end

