-- ==== Sys2Proof/Laws/Step.lean ====
section
/-!
SUPPORT. What a step is, case by case: the phase's meaning while a call runs, the host's next move at
`IDLE`.
-/

namespace Sys2Proof.Machine

@[simp] theorem State.busy_iff (s : State) : s.busy = true ↔ s.xp.phase ≠ .idle := by
  simp [State.busy]

@[simp] theorem Phase.ofCode_code (p : Phase) : Phase.ofCode p.code = .ok p := by
  cases p <;> rfl

@[simp] theorem decode_phase (p : Phase) : decode (.phase p.code) = .ok p.toInstr := by
  simp [decode, Except.map]

/-- While a call runs, a step is its phase (R93). -/
theorem step_of_busy {s : State} (h : s.xp.phase ≠ .idle) : step s = exec s.xp.phase.toInstr s := by
  have hb : s.busy = true := (State.busy_iff s).mpr h
  simp [step, State.fetch, hb]

theorem State.fetch_idle {s : State} (h : s.xp.phase = .idle) :
    s.fetch = match s.host with
      | [] => .word (.phase 0#5) s
      | m :: rest => State.onHostMove { s with host := rest } m := by
  have hb : s.busy = false := by simp [State.busy, h]
  cases hh : s.host <;> simp [State.fetch, hb, h, hh, Phase.code]

/-- At `IDLE` without a move of the host, nothing happens (R151). -/
theorem step_of_idle {s : State} (h : s.xp.phase = .idle) (hh : s.host = []) : step s = .next s := by
  have : decode (.phase 0#5) = .ok .idle := rfl
  simp [step, State.fetch_idle h, hh, this, exec, execIdle]

/-- At `IDLE` with a move of the host (R245). -/
theorem step_of_move {s : State} {m : HostMove} {rest : List HostMove} (h : s.xp.phase = .idle)
    (hh : s.host = m :: rest) :
    step s = match State.onHostMove { s with host := rest } m with
      | .moved t => .next t
      | .word w t =>
        match decode w with
        | .ok i => exec i t
        | .error why => .refused (.reservedWord why) := by
  have hf : s.fetch = State.onHostMove { s with host := rest } m := by rw [State.fetch_idle h, hh]
  rw [← hf]
  unfold step
  cases s.fetch with
  | moved t => rfl
  | word w t => cases hd : decode w <;> simp only [hd]

/-- What a step of a call can do: a pin operation of the phase, a wait, the end after `S4C`, or, outside
the frame, the stop of `S3A` (R52). -/
theorem step_busy_cases {s : State} (h : s.xp.phase ≠ .idle) :
    (∃ l v, phasePin s.data s.xp = some (l, v) ∧ s.xp.phase ≠ .s4c
        ∧ step s = .next (s.pin l v (·.goto (nextPoint s.data.length s.xp))))
    ∨ (phasePin s.data s.xp = none ∧ s.xp.phase ≠ .s4c ∧ s.xp.phase ≠ .s3a
        ∧ step s = .next ((s.record (.wait delayUnit)).goto (nextPoint s.data.length s.xp)))
    ∨ (s.xp.phase = .s4c ∧ step s = .next ((s.record (.wait delayUnit)).respond .ok))
    ∨ (s.xp.phase = .s3a ∧ s.data[s.xp.byteIdx]? = none ∧ step s = .fault .frameIndexOutside) := by
  rw [step_of_busy h]
  cases hp : s.xp.phase
  case idle => exact absurd hp h
  case s3a =>
    cases hb : s.data[s.xp.byteIdx]? with
    | none => right; right; right; simp [Phase.toInstr, exec, execS3A, frameRead, hb]
    | some b =>
      left
      refine ⟨_, _, by simp [phasePin, hp, hb]; exact ⟨rfl, rfl⟩, by simp, ?_⟩
      simp [Phase.toInstr, exec, execS3A, frameRead, hb, nextPoint, hp]
  case s4c => right; right; left; exact ⟨rfl, rfl⟩
  case s2c | s2f | s3b | s3c2 | s4a =>
    right; left
    refine ⟨by simp [phasePin, hp], by simp, by simp, ?_⟩
    simp [Phase.toInstr, exec, execS2C, execS2F, execS3B, execS3C2, execS4A, State.wait, nextPoint, hp]
  all_goals
    left
    refine ⟨_, _, by simp [phasePin, hp]; exact ⟨rfl, rfl⟩, by simp, ?_⟩
    simp [Phase.toInstr, exec, execS1A, execS1B, execS2A, execS2B, execS2D, execS2E, execS3C1, execS3D,
      execS3E, execS4B, nextPoint, hp]

end Sys2Proof.Machine
end

