-- ==== Sys2Proof/Laws/Sequence.lean ====
section
/-!
SUPPORT. The arithmetic of the sequence: the bit stream of a frame, the events and the chip contents from one
execution point to the next.
-/

namespace Sys2Proof.Machine

theorem byteBits_getElem? (b : Byte) (j : Nat) (h : j < 8) : (byteBits b)[j]? = some (b.getLsbD j) := by
  rcases j with _ | _ | _ | _ | _ | _ | _ | _ | j <;> first | rfl | omega

/-- `s[k] = data[k div 8][k mod 8]` (R172). -/
theorem frameBits_getElem? (data : List Byte) (k : Nat) (h : k < 8 * data.length) :
    (frameBits data)[k]? = some (streamBit data k) := by
  induction data generalizing k with
  | nil => simp at h
  | cons b bs ih =>
    simp only [frameBits, List.flatMap_cons]
    by_cases hk : k < 8
    · rw [List.getElem?_append_left (by simpa using hk), byteBits_getElem? b k hk]
      simp [streamBit, Nat.div_eq_of_lt hk, Nat.mod_eq_of_lt hk]
    · obtain ⟨m, rfl⟩ : ∃ m, k = m + 8 := ⟨k - 8, by omega⟩
      rw [List.getElem?_append_right (by simp), byteBits_length, Nat.add_sub_cancel]
      have hm : m < 8 * bs.length := by simp only [List.length_cons] at h; omega
      have hi := ih m hm
      rw [frameBits] at hi
      rw [hi]
      simp [streamBit, Nat.add_div_right m (by decide : 0 < 8)]

theorem frameBits_take_succ (data : List Byte) (k : Nat) (h : k < 8 * data.length) :
    (frameBits data).take (k + 1) = (frameBits data).take k ++ [streamBit data k] := by
  rw [List.take_add_one, frameBits_getElem? data k h]; rfl

/-- One more bit loaded (R150). -/
theorem loadedEvents_succ (data : List Byte) (k : Nat) (h : k < 8 * data.length) :
    loadedEvents data (k + 1) = loadedEvents data k ++ bitEvents (streamBit data k) := by
  simp [loadedEvents, frameBits_take_succ data k h, List.flatMap_append, List.append_assoc]

@[simp] theorem loadedEvents_zero (data : List Byte) : loadedEvents data 0 = opening := by
  simp [loadedEvents]

/-- All bits loaded: what the latch pulse completes to the trace of the frame. -/
theorem loadedEvents_all (data : List Byte) :
    loadedEvents data (8 * data.length) ++ latchPulse = frameTrace data := by
  rw [frameTrace_eq, loadedEvents, List.take_of_length_le (by simp)]

@[simp] theorem chipLoaded_length (depth : Nat) (bits : List Bool) :
    (chipLoaded depth bits).length = depth := by
  simp [chipLoaded]

@[simp] theorem chipLoaded_nil (depth : Nat) : chipLoaded depth [] = zeroStages depth := by
  simp [chipLoaded, zeroStages]

/-- One more shift (R233, R239). -/
theorem chipLoaded_snoc (depth : Nat) (bits : List Bool) (b : Bool) :
    chipLoaded depth (bits ++ [b]) = shiftIn depth b (chipLoaded depth bits) := by
  cases depth with
  | zero => simp [chipLoaded, shiftIn]
  | succ n => simp [chipLoaded, shiftIn, List.take_take]

/-- R239 stage by stage: the last bit sent is at stage 0, and stages the stream did not reach are zero. -/
theorem chipLoaded_getElem? (depth : Nat) (data : List Byte) (m : Nat) (h : m < depth) :
    (chipLoaded depth (frameBits data))[m]? =
      some (if m < 8 * data.length then streamBit data (8 * data.length - 1 - m) else false) := by
  rw [chipLoaded, List.getElem?_take_of_lt h]
  split
  · rename_i hm
    rw [List.getElem?_append_left (by simpa using hm), List.getElem?_reverse (by simpa using hm),
      frameBits_length, frameBits_getElem? data _ (by omega)]
  · rename_i hm
    rw [List.getElem?_append_right (by simp; omega)]
    simp [List.getElem?_replicate]
    omega

/-- Inside the loop the bit's number is inside the stream (R169). -/
theorem bitNumber_lt {x : ExecPoint} {len : Nat} (h : x.byteIdx < len) : bitNumber x < 8 * len := by
  have := x.bitIdx.isLt
  simp only [bitNumber]; omega

/-- The bit that `S3A` reads is the stream's (R160, R172). -/
theorem streamBit_bitNumber (data : List Byte) (x : ExecPoint) (b : Byte)
    (h : data[x.byteIdx]? = some b) : streamBit data (bitNumber x) = bitOf b x.bitIdx := by
  have hj := x.bitIdx.isLt
  have h1 : bitNumber x / 8 = x.byteIdx := by simp only [bitNumber]; omega
  have h2 : bitNumber x % 8 = x.bitIdx.toNat := by simp only [bitNumber]; omega
  simp [streamBit, bitOf, h1, h2, h]

/-- Where `S2F` leads (R159). -/
theorem afterClear_cases (data : List Byte) :
    (data = [] ∧ afterClear data.length = ⟨.s4a, 0, 0#3⟩)
      ∨ (0 < data.length ∧ afterClear data.length = ⟨.s3a, 0, 0#3⟩) := by
  cases data <;> simp [afterClear]

/-- Where `S3E` leads, by the number of the next bit (R165). -/
theorem afterBit_cases (len i : Nat) (j : BitVec 3) (h : i < len) :
    (∃ y, afterBit len i j = y ∧ y.phase = .s3a ∧ y.byteIdx < len
        ∧ bitNumber y = bitNumber ⟨.s3e, i, j⟩ + 1)
      ∨ (afterBit len i j = ⟨.s4a, 0, 0#3⟩ ∧ bitNumber ⟨.s3e, i, j⟩ + 1 = 8 * len) := by
  have hj := j.isLt
  unfold afterBit
  by_cases h7 : j < 7#3
  · left
    refine ⟨⟨.s3a, i, j + 1#3⟩, by simp [h7], rfl, h, ?_⟩
    have : j.toNat < 7 := by simpa [BitVec.lt_def] using h7
    have : (j + 1#3).toNat = j.toNat + 1 := by simp [BitVec.toNat_add]; omega
    simp only [bitNumber, this]; omega
  · have hj7 : j.toNat = 7 := by
      have : ¬ j.toNat < 7 := by simpa [BitVec.lt_def] using h7
      omega
    by_cases hi : i + 1 < len
    · left
      exact ⟨⟨.s3a, i + 1, 0#3⟩, by simp [h7, hi], rfl, hi, by simp [bitNumber, hj7]; omega⟩
    · right
      exact ⟨by simp [h7, hi], by simp only [bitNumber, hj7]; omega⟩

end Sys2Proof.Machine
end

