-- ==== Sys2Proof/Tests/Slice0.lean ====
section
/-!
SUPPORT. Tests on fixed values, each with the table or rule of spec/ its expected result comes from, and for every
statement with hypotheses a witness that meets them. A free value is never compared.
-/

namespace Sys2Proof.Tests

open Sys2Proof Sys2Proof.Machine

/-! Helpers -/

/-- Levels as 95_test_vectors.md writes them: CLR, SHIFT, LATCH, DATA. -/
def lines (c s l d : WireLevel) : Wires := ⟨c, s, l, d⟩

/-- A chip of four stages on lines with the error values `E` = {0}. -/
def small : Platform := ⟨.finite 1, 4, .level⟩

/-- A state at the point `x` of a call of `data`, with `w` on the wires and the answers to come. -/
def at_ (x : ExecPoint) (data : List Byte) (w : Wires) (answers : List Answer) : State where
  cfg := small
  xp := x
  variant := .shiftOut
  data := data
  wires := w
  sr := [false, true, true, false]
  out := [false, false, false, false]
  trace := []
  response := none
  host := []
  answers := answers
  asked := 0
  draws := 3

/-- A state in which one micro-operation is taken alone (95_test_vectors.md 2.3). -/
def alone (w : Wires) (answer : Answer) : State := at_ .rest [] w [answer]

/-- A state in a call of the one byte 0x01, at phase `p`. -/
def inPhase (p : Phase) (answer : Answer) : State :=
  at_ ⟨p, 0, 0#3⟩ [0x01#8] (lines .hi .lo .lo .lo) [answer]

/-- An idle state with the host's moves `ms` to come. -/
def idleWith (ms : List HostMove) : State :=
  { alone (lines .unknown .unknown .unknown .unknown) .ok with host := ms }

/-- The same, on lines that cannot fail. -/
def idleNoErrors (ms : List HostMove) : State :=
  { idleWith ms with cfg := ⟨.finite 0, 4, .level⟩ }

/-- The next state's wires and chip. -/
def chipView : Host.Outcome State Fault Refusal → Option (Wires × List Bool × List Bool)
  | .next t => some (t.wires, t.sr, t.out)
  | _ => none

/-- The next state's wires, trace and response. -/
def portView : Host.Outcome State Fault Refusal → Option (Wires × List Event × Option Response)
  | .next t => some (t.wires, t.trace, t.response)
  | _ => none

/-- The next state's execution point and trace. -/
def walkView : Host.Outcome State Fault Refusal → Option (ExecPoint × List Event)
  | .next t => some (t.xp, t.trace)
  | _ => none

/-- The answer was a refusal of this name. -/
def refusedAs (r : Refusal) : Host.Outcome State Fault Refusal → Bool
  | .refused q => q == r
  | _ => false

/-! Well-formedness (R112, R131) -/

theorem test_wf_infallible_refused_with_errors :
    Instr.wellFormed (.finite 1) (.shiftOutInfallible []) = false
      ∧ Instr.wellFormed .countable (.shiftOutInfallible []) = false
      ∧ Instr.wellFormed (.finite 0) (.shiftOutInfallible []) = true
      ∧ Instr.wellFormed (.finite 1) (.shiftOut []) = true := by decide

theorem test_wf_answer_outside_error_type :
    Answer.wellFormed (.finite 2) (.err 2) = false ∧ Answer.wellFormed (.finite 2) (.err 1) = true
      ∧ Answer.wellFormed (.finite 0) (.err 0) = false ∧ Answer.wellFormed (.finite 0) .ok = true := by
  decide

/-! Decoding: words written out from R81, R85 to R90, R92 -/

theorem test_decode_commands :
    decode (.command 0b0#1 [0x81#8]) = .ok (.shiftOut [0x81#8])
      ∧ decode (.command 0b1#1 []) = .ok (.shiftOutInfallible []) := by decide

theorem test_decode_pins :
    decode (.micro 0b000000000000#12) = .ok .clrLo ∧ decode (.micro 0b000000000001#12) = .ok .clrHi
      ∧ decode (.micro 0b000100000000#12) = .ok .shiftLo
      ∧ decode (.micro 0b000100000001#12) = .ok .shiftHi
      ∧ decode (.micro 0b001000000000#12) = .ok .latchLo
      ∧ decode (.micro 0b001000000001#12) = .ok .latchHi
      ∧ decode (.micro 0b001100000000#12) = .ok .dataLo
      ∧ decode (.micro 0b001100000001#12) = .ok .dataHi := by decide

theorem test_decode_waits :
    decode (.micro 0b010000000001#12) = .ok (.wait 1#8)
      ∧ decode (.micro 0b010000000000#12) = .ok (.wait 0#8)
      ∧ decode (.micro 0b010011111111#12) = .ok (.wait 255#8) := by decide

/-- 95_test_vectors.md 2.1, reserved words. -/
theorem test_decode_reserved :
    decode (.micro 0x002#12) = .error .reservedArg ∧ decode (.micro 0x3FF#12) = .error .reservedArg
      ∧ decode (.micro 0x180#12) = .error .reservedArg
      ∧ decode (.micro 0x501#12) = .error .reservedLine
      ∧ decode (.micro 0x701#12) = .error .reservedLine
      ∧ decode (.micro 0x800#12) = .error .reservedKind
      ∧ decode (.micro 0xC01#12) = .error .reservedKind
      ∧ decode (.micro 0xFFF#12) = .error .reservedKind := by decide

theorem test_decode_phases :
    decode (.phase 0b00000#5) = .ok .idle ∧ decode (.phase 0b00001#5) = .ok .s1a
      ∧ decode (.phase 0b00010#5) = .ok .s1b ∧ decode (.phase 0b00011#5) = .ok .s2a
      ∧ decode (.phase 0b00100#5) = .ok .s2b ∧ decode (.phase 0b00101#5) = .ok .s2c
      ∧ decode (.phase 0b00110#5) = .ok .s2d ∧ decode (.phase 0b00111#5) = .ok .s2e
      ∧ decode (.phase 0b01000#5) = .ok .s2f ∧ decode (.phase 0b01001#5) = .ok .s3a
      ∧ decode (.phase 0b01010#5) = .ok .s3b ∧ decode (.phase 0b01011#5) = .ok .s3c1
      ∧ decode (.phase 0b01100#5) = .ok .s3c2 ∧ decode (.phase 0b01101#5) = .ok .s3d
      ∧ decode (.phase 0b01110#5) = .ok .s3e ∧ decode (.phase 0b01111#5) = .ok .s4a
      ∧ decode (.phase 0b10000#5) = .ok .s4b ∧ decode (.phase 0b10001#5) = .ok .s4c
      ∧ decode (.phase 0b10010#5) = .error .reservedPhase
      ∧ decode (.phase 0b11111#5) = .error .reservedPhase := by decide

/-- Bytes on a port (the model's own layout, log 8), a table word of each format among them. -/
theorem test_decode_bytes :
    decodeBytes .command [0x00#8, 0x12#8, 0x34#8] = .ok (.shiftOut [0x12#8, 0x34#8])
      ∧ decodeBytes .micro [0x01#8, 0x03#8] = .ok .dataHi
      ∧ decodeBytes .micro [0x01#8, 0x13#8] = .error .strayBits
      ∧ decodeBytes .phase [0x11#8] = .ok .s4c ∧ decodeBytes .phase [] = .error .badLength
      ∧ decodeTableWord 1 1 = some (.shiftOutInfallible [])
      ∧ decodeTableWord 12 0x4FF = some (.wait 255#8) ∧ decodeTableWord 5 1 = some .s1a := by decide

/-! The commands (R111, R112; 95_test_vectors.md V5, V6, V7) -/

theorem test_shiftOut :
    walkView (exec (.shiftOut [0x81#8]) (idleWith [])) = some (⟨.s1a, 0, 0#3⟩, [])
      ∧ refusedAs .busy (exec (.shiftOut []) (inPhase .s1a .ok)) = true := by decide

theorem test_shiftOutInfallible :
    walkView (exec (.shiftOutInfallible [0x81#8]) (idleNoErrors [])) = some (⟨.s1a, 0, 0#3⟩, [])
      ∧ refusedAs .infallibleNotOffered (exec (.shiftOutInfallible [0x81#8]) (idleWith [])) = true := by
  decide

/-! A table word placed for the host's question is run by the next step (log 8) -/

/-- What the next step does after `w` has been placed. -/
def placed (nbits w : Nat) : Option (ExecPoint × List Event) :=
  walkView (step ((idleWith []).withFetchWord nbits w))

/-- The ten words that R93 has a phase issue, a command, and a phase. -/
theorem test_placed_words :
    placed 12 0x000 = some (⟨.s2b, 0, 0#3⟩, [.pin .clr .lo .ok])
      ∧ placed 12 0x001 = some (⟨.s2f, 0, 0#3⟩, [.pin .clr .hi .ok])
      ∧ placed 12 0x100 = some (⟨.s1b, 0, 0#3⟩, [.pin .shift .lo .ok])
      ∧ placed 12 0x101 = some (⟨.s2c, 0, 0#3⟩, [.pin .shift .hi .ok])
      ∧ placed 12 0x200 = some (⟨.s2a, 0, 0#3⟩, [.pin .latch .lo .ok])
      ∧ placed 12 0x201 = some (⟨.s4c, 0, 0#3⟩, [.pin .latch .hi .ok])
      ∧ placed 12 0x300 = some (⟨.s3a, 0, 1#3⟩, [.pin .data .lo .ok])
      ∧ placed 12 0x301 = some (⟨.s3b, 0, 0#3⟩, [.pin .data .hi .ok])
      ∧ placed 12 0x401 = some (⟨.s2d, 0, 0#3⟩, [.wait 1#8])
      ∧ placed 1 0 = some (⟨.s1a, 0, 0#3⟩, []) ∧ placed 5 17 = some (⟨.idle, 0, 0#3⟩, [.wait 1#8]) := by
  decide

/-- A reserved word, a wait that no phase issues (R139) and stray bits are not placed. -/
theorem test_placed_nothing :
    (idleWith []).withFetchWord 5 18 = idleWith [] ∧ (idleWith []).withFetchWord 12 0x800 = idleWith []
      ∧ (idleWith []).withFetchWord 12 0x400 = idleWith []
      ∧ (idleWith []).withFetchWord 12 0x1000 = idleWith [] := by decide

/-! The micro-operations (95_test_vectors.md 2.3, M1 to M21) -/

/-- M1, M2. -/
theorem test_clrLo :
    chipView (exec .clrLo { alone (lines .hi .lo .lo .hi) .ok with sr := [true, false, true, true] })
        = some (lines .lo .lo .lo .hi, [false, false, false, false], [false, false, false, false])
      ∧ chipView (exec .clrLo
          { alone (lines .hi .lo .lo .hi) .ok with
            cfg := ⟨.finite 1, 4, .edge⟩, sr := [true, false, true, true] })
        = some (lines .lo .lo .lo .hi, [true, false, true, true], [false, false, false, false]) := by
  decide

/-- M4. -/
theorem test_clrHi :
    chipView (exec .clrHi
        { alone (lines .lo .lo .lo .hi) .ok with
          sr := [false, false, false, false], out := [true, true, true, true] })
      = some (lines .hi .lo .lo .hi, [false, false, false, false], [true, true, true, true]) := by
  decide

/-- M8, M21. -/
theorem test_shiftLo :
    chipView (exec .shiftLo (alone (lines .hi .hi .lo .hi) .ok))
        = some (lines .hi .lo .lo .hi, [false, true, true, false], [false, false, false, false])
      ∧ chipView (exec .shiftLo (alone (lines .hi .unknown .lo .hi) .ok))
        = some (lines .hi .lo .lo .hi, [false, true, true, false], [false, false, false, false]) := by
  decide

/-- M3, M5, M6, M7. -/
theorem test_shiftHi :
    chipView (exec .shiftHi { alone (lines .lo .lo .lo .hi) .ok with sr := [true, false, true, true] })
        = some (lines .lo .hi .lo .hi, [false, false, false, false], [false, false, false, false])
      ∧ chipView (exec .shiftHi (alone (lines .hi .lo .lo .hi) .ok))
        = some (lines .hi .hi .lo .hi, [true, false, true, true], [false, false, false, false])
      ∧ chipView (exec .shiftHi (alone (lines .hi .lo .lo .lo) .ok))
        = some (lines .hi .hi .lo .lo, [false, false, true, true], [false, false, false, false])
      ∧ chipView (exec .shiftHi (alone (lines .hi .hi .lo .hi) .ok))
        = some (lines .hi .hi .lo .hi, [false, true, true, false], [false, false, false, false]) := by
  decide

/-- M16 and M20: the failed edge, and the free bit that an unknown `DATA` shifts in. -/
theorem test_shiftHi_open :
    portView (exec .shiftHi (alone (lines .hi .lo .lo .lo) (.err 0)))
        = some (lines .hi .unknown .lo .lo, [.pin .shift .hi (.err 0)], some (.err 0))
      ∧ (chipView (exec .shiftHi (alone (lines .hi .lo .lo .unknown) .ok))).map
          (fun v => (v.1, v.2.1.tail, v.2.2))
        = some (lines .hi .hi .lo .unknown, [false, true, true], [false, false, false, false]) := by
  decide

/-- M11. -/
theorem test_latchLo :
    chipView (exec .latchLo
        { alone (lines .hi .lo .hi .lo) .ok with
          sr := [true, true, true, true], out := [false, true, true, false] })
      = some (lines .hi .lo .lo .lo, [true, true, true, true], [false, true, true, false]) := by decide

/-- M9, M10. -/
theorem test_latchHi :
    chipView (exec .latchHi (alone (lines .hi .lo .lo .lo) .ok))
        = some (lines .hi .lo .hi .lo, [false, true, true, false], [false, true, true, false])
      ∧ chipView (exec .latchHi
          { alone (lines .hi .lo .hi .lo) .ok with
            sr := [true, true, true, true], out := [false, true, true, false] })
        = some (lines .hi .lo .hi .lo, [true, true, true, true], [false, true, true, false]) := by
  decide

/-- M13, M14: a level that was there already is still one event. -/
theorem test_dataLo :
    chipView (exec .dataLo (alone (lines .hi .lo .lo .hi) .ok))
        = some (lines .hi .lo .lo .lo, [false, true, true, false], [false, false, false, false])
      ∧ portView (exec .dataLo (alone (lines .hi .lo .lo .lo) .ok))
        = some (lines .hi .lo .lo .lo, [.pin .data .lo .ok], none) := by decide

/-- M17 with either value in `variant`, which is not read while idle (R35). -/
theorem test_dataHi_idle_variant :
    portView (exec .dataHi { alone (lines .hi .lo .lo .lo) (.err 0) with variant := .infallible })
      = some (lines .hi .lo .lo .unknown, [.pin .data .hi (.err 0)], some (.err 0)) := by decide

/-- M12, M17. -/
theorem test_dataHi :
    chipView (exec .dataHi (alone (lines .hi .lo .lo .lo) .ok))
        = some (lines .hi .lo .lo .hi, [false, true, true, false], [false, false, false, false])
      ∧ portView (exec .dataHi (alone (lines .hi .lo .lo .lo) (.err 0)))
        = some (lines .hi .lo .lo .unknown, [.pin .data .hi (.err 0)], some (.err 0)) := by decide

/-- M15. -/
theorem test_wait :
    chipView (exec (.wait 1#8) (alone (lines .hi .lo .lo .lo) .ok))
        = some (lines .hi .lo .lo .lo, [false, true, true, false], [false, false, false, false])
      ∧ walkView (exec (.wait 0#8) (inPhase .s2c .ok)) = some (⟨.s2d, 0, 0#3⟩, [.wait 0#8]) := by decide

/-! The phases: the word issued (95_test_vectors.md 2.1, format P) and the walk of 2.4 -/

theorem test_idle :
    walkView (step (idleWith [])) = some (⟨.idle, 0, 0#3⟩, []) := by decide

theorem test_s1a :
    walkView (step (inPhase .s1a .ok)) = some (⟨.s1b, 0, 0#3⟩, [.pin .shift .lo .ok]) := by decide

theorem test_s1b :
    walkView (step (inPhase .s1b .ok)) = some (⟨.s2a, 0, 0#3⟩, [.pin .latch .lo .ok]) := by decide

theorem test_s2a :
    walkView (step (inPhase .s2a .ok)) = some (⟨.s2b, 0, 0#3⟩, [.pin .clr .lo .ok]) := by decide

theorem test_s2b :
    walkView (step (inPhase .s2b .ok)) = some (⟨.s2c, 0, 0#3⟩, [.pin .shift .hi .ok]) := by decide

theorem test_s2c :
    walkView (step (inPhase .s2c .ok)) = some (⟨.s2d, 0, 0#3⟩, [.wait 1#8]) := by decide

/-- E7: the fifth pin operation fails. -/
theorem test_s2d :
    walkView (step (inPhase .s2d .ok)) = some (⟨.s2e, 0, 0#3⟩, [.pin .shift .lo .ok])
      ∧ walkView (step (inPhase .s2d (.err 0))) = some (⟨.idle, 0, 0#3⟩, [.pin .shift .lo (.err 0)]) := by
  decide

theorem test_s2e :
    walkView (step (inPhase .s2e .ok)) = some (⟨.s2f, 0, 0#3⟩, [.pin .clr .hi .ok]) := by decide

theorem test_s2f :
    walkView (step (inPhase .s2f .ok)) = some (⟨.s3a, 0, 0#3⟩, [.wait 1#8])
      ∧ walkView (step { inPhase .s2f .ok with data := [] }) = some (⟨.s4a, 0, 0#3⟩, [.wait 1#8]) := by
  decide

/-- The least significant bit first: 0x01 raises `DATA` for the first edge, 0x80 for the last (V4). -/
theorem test_s3a :
    walkView (step (inPhase .s3a .ok)) = some (⟨.s3b, 0, 0#3⟩, [.pin .data .hi .ok])
      ∧ walkView (step (at_ ⟨.s3a, 0, 7#3⟩ [0x01#8] (lines .hi .lo .lo .lo) [.ok]))
        = some (⟨.s3b, 0, 7#3⟩, [.pin .data .lo .ok])
      ∧ walkView (step (at_ ⟨.s3a, 1, 7#3⟩ [0x01#8, 0x80#8] (lines .hi .lo .lo .lo) [.ok]))
        = some (⟨.s3b, 1, 7#3⟩, [.pin .data .hi .ok]) := by decide

theorem test_s3b :
    walkView (step (inPhase .s3b .ok)) = some (⟨.s3c1, 0, 0#3⟩, [.wait 1#8]) := by decide

theorem test_s3c1 :
    walkView (step (inPhase .s3c1 .ok)) = some (⟨.s3c2, 0, 0#3⟩, [.pin .shift .hi .ok]) := by decide

theorem test_s3c2 :
    walkView (step (inPhase .s3c2 .ok)) = some (⟨.s3d, 0, 0#3⟩, [.wait 1#8]) := by decide

theorem test_s3d :
    walkView (step (inPhase .s3d .ok)) = some (⟨.s3e, 0, 0#3⟩, [.pin .shift .lo .ok]) := by decide

/-- The three ways out of `S3E`: the walk of 95_test_vectors.md 2.4. -/
theorem test_s3e :
    walkView (step (at_ ⟨.s3e, 1, 6#3⟩ [0#8, 0#8] (lines .hi .lo .lo .lo) [.ok]))
        = some (⟨.s3a, 1, 7#3⟩, [.pin .data .lo .ok])
      ∧ walkView (step (at_ ⟨.s3e, 0, 7#3⟩ [0#8, 0#8] (lines .hi .lo .lo .lo) [.ok]))
        = some (⟨.s3a, 1, 0#3⟩, [.pin .data .lo .ok])
      ∧ walkView (step (at_ ⟨.s3e, 1, 7#3⟩ [0#8, 0#8] (lines .hi .lo .lo .lo) [.ok]))
        = some (⟨.s4a, 0, 0#3⟩, [.pin .data .lo .ok]) := by decide

theorem test_s4a :
    walkView (step (inPhase .s4a .ok)) = some (⟨.s4b, 0, 0#3⟩, [.wait 1#8]) := by decide

theorem test_s4b :
    walkView (step (inPhase .s4b .ok)) = some (⟨.s4c, 0, 0#3⟩, [.pin .latch .hi .ok])
      ∧ chipView (step (inPhase .s4b .ok))
        = some (lines .hi .lo .hi .lo, [false, true, true, false], [false, true, true, false]) := by
  decide

theorem test_s4c :
    walkView (step (inPhase .s4c .ok)) = some (⟨.idle, 0, 0#3⟩, [.wait 1#8])
      ∧ portView (step (inPhase .s4c .ok))
        = some (lines .hi .lo .lo .lo, [.wait 1#8], some .ok) := by decide

/-! Reset, traces, the stream, the chip -/

/-- R40. -/
theorem test_reset :
    State.reset.xp = ⟨.idle, 0, 0#3⟩ ∧ State.reset.wires = lines .unknown .unknown .unknown .unknown
      ∧ State.reset.trace = [] ∧ State.reset.response = none := by decide

/-- V1 in the words of 2.1: `100 200 000 101 401 100 001 401 401 201 401`; 0x81 has 59 events (V3). -/
theorem test_traces :
    frameTrace [] = [okPin .shift .lo, okPin .latch .lo, okPin .clr .lo, okPin .shift .hi, .wait 1#8,
        okPin .shift .lo, okPin .clr .hi, .wait 1#8, .wait 1#8, okPin .latch .hi, .wait 1#8]
      ∧ (frameTrace [0x81#8]).length = 59 ∧ pinCount (frameTrace [0x81#8]) = 39
      ∧ waitCount (frameTrace [0x81#8]) = 20 := by decide

/-- E7 and the row `f` = 8 of 2.5. -/
theorem test_failed_traces :
    failedAt 0 5 (frameTrace [0x81#8]) = [okPin .shift .lo, okPin .latch .lo, okPin .clr .lo,
        okPin .shift .hi, .wait 1#8, .pin .shift .lo (.err 0)]
      ∧ (failedAt 0 8 (frameTrace [0x81#8])).length = 11
      ∧ (failedAt 0 38 (frameTrace [0x81#8])).length = 56
      ∧ (failedAt 0 39 (frameTrace [0x81#8])).length = 58 := by decide

/-- E8, and 0x12 of P4: the bits in the order they are sent. -/
theorem test_stream :
    (List.range 16).map (streamBit [0x01#8, 0xFF#8])
        = [true, false, false, false, false, false, false, false, true, true, true, true, true, true, true,
          true]
      ∧ frameBits [0x12#8] = [false, true, false, false, true, false, false, false] := by decide

/-- Three rows of 95_test_vectors.md 2.6: depths 8, 16 and 4. -/
theorem test_chip_loaded :
    chipLoaded 8 (frameBits [0x12#8, 0x34#8]) = [false, false, true, true, false, true, false, false]
      ∧ chipLoaded 16 (frameBits [0xA5#8]) = [true, false, true, false, false, true, false, true,
          false, false, false, false, false, false, false, false]
      ∧ chipLoaded 4 (frameBits [0xA5#8]) = [true, false, true, false] := by decide

/-- R99. -/
theorem test_text :
    Event.text (.pin .shift .hi .ok) = "SHIFT_HI" ∧ Event.text (.pin .shift .lo (.err 0)) = "SHIFT_LO!e0"
      ∧ Event.text (.wait 1#8) = "WAIT 1"
      ∧ commandText .shiftOut [0x01#8, 0xFF#8] = "SHIFT_OUT [0x01, 0xFF]"
      ∧ traceText (idleSetup ++ [.wait 1#8]) = "SHIFT_LO LATCH_LO WAIT 1"
      ∧ Response.text .ok = "-> Ok" := by decide

/-- R83. -/
theorem test_response_value :
    Response.value .ok = some (0#1, none) ∧ Response.value (.err 3) = some (1#1, some 3)
      ∧ Response.value .completed = none := by decide

/-! Witnesses: for each statement with hypotheses, a state and operands that meet all of them -/

/-- The 17 phases of a call. -/
def callPhases : List Phase := Phase.inOrder.tail

/-- The eleven phases that issue a pin operation (R201). -/
def pinPhases : List Phase :=
  [.s1a, .s1b, .s2a, .s2b, .s2d, .s2e, .s3a, .s3c1, .s3d, .s3e, .s4b]

/-- On lines that cannot fail every answer is `ok` (R131). -/
theorem idleNoErrors_allOk (ms : List HostMove) (n : Nat) : (idleNoErrors ms).AllOk n := by
  intro k _
  simp only [State.answerAt, Answer.admitted]
  split
  · rename_i h
    generalize ((idleNoErrors ms).answers[k]?).getD _ = a at *
    cases a with
    | ok => rfl
    | err e => simp [Answer.wellFormed, ErrType.contains, idleNoErrors] at h
  · rfl

/-- ShiftOutStartsCall, InfallibleStartsCall, InfallibleRefusedWithErrors, IdleIssuesNothing. -/
theorem test_wit_commands :
    (idleWith []).xp.phase = .idle ∧ (idleWith []).cfg.errs.isEmpty = false
      ∧ (idleNoErrors []).xp.phase = .idle ∧ (idleNoErrors []).cfg.errs.isEmpty = true
      ∧ (idleWith []).host = [] := by decide

/-- NoCommandWhileBusy, with a command waiting and a step to take. -/
theorem test_wit_busy :
    let s := { inPhase .s1a .ok with host := [.command 0#1 []] }
    s.xp.phase ≠ .idle ∧ ∃ t, step s = .next t := ⟨by decide, _, rfl⟩

/-- PinOperationsAnsweredOk and PinOperationsAnsweredErr, at `S4C` and elsewhere; WaitIsOneEvent. -/
theorem test_wit_answers :
    (inPhase .s3d .ok).answer = .ok ∧ (inPhase .s3d .ok).xp.phase ≠ .s4c
      ∧ (inPhase .s4c .ok).answer = .ok ∧ (inPhase .s4c .ok).xp.phase = .s4c
      ∧ (inPhase .s3d (.err 0)).answer = .err 0
      ∧ { inPhase .s4c (.err 0) with variant := .infallible }.answer = .err 0 := by decide

/-- OpeningPinPhases, ClearPulseWaits, BitLoadingPhases, LatchPhases, PhasesIssueTheirWords. -/
theorem test_wit_phases :
    ∀ p ∈ callPhases, (inPhase p .ok).xp.phase = p ∧ (inPhase p .ok).answer = .ok := by decide

/-- ClearPulseWaits and BitLoadingPhases, on each way out of `S2F` and `S3E`. -/
theorem test_wit_exits :
    { inPhase .s2f .ok with data := [] }.data = [] ∧ (inPhase .s2f .ok).data ≠ []
      ∧ (at_ ⟨.s3e, 1, 6#3⟩ [0#8, 0#8] (lines .hi .lo .lo .lo) [.ok]).xp.bitIdx.toNat < 7
      ∧ ¬ (at_ ⟨.s3e, 0, 7#3⟩ [0#8, 0#8] (lines .hi .lo .lo .lo) [.ok]).xp.bitIdx.toNat < 7
      ∧ (at_ ⟨.s3e, 0, 7#3⟩ [0#8, 0#8] (lines .hi .lo .lo .lo) [.ok]).xp.byteIdx + 1 < 2
      ∧ ¬ (at_ ⟨.s3e, 1, 7#3⟩ [0#8, 0#8] (lines .hi .lo .lo .lo) [.ok]).xp.byteIdx + 1 < 2 := by decide

/-- DataPhasePresentsBit and PhasesIssueTheirWords: the first bit and the last bit of the last byte. -/
theorem test_wit_frame_bit :
    let s := inPhase .s3a .ok
    let u := at_ ⟨.s3a, 1, 7#3⟩ [0x01#8, 0x80#8] (lines .hi .lo .lo .lo) [.ok]
    (s.xp.phase = .s3a ∧ s.data[s.xp.byteIdx]? = some 0x01#8 ∧ s.answer = .ok)
      ∧ u.xp.phase = .s3a ∧ u.data[u.xp.byteIdx]? = some 0x80#8 ∧ u.answer = .ok := by decide

/-- PinErrorAbortsCall. -/
theorem test_wit_aborts :
    ∀ p ∈ pinPhases, (inPhase p (.err 0)).xp.phase = p ∧ (inPhase p (.err 0)).Legal
      ∧ (inPhase p (.err 0)).answer = .err 0 := by decide

/-- FrameReadOutsideStops: the first index past the frame, and the empty frame. -/
theorem test_wit_outside :
    (at_ ⟨.s3a, 1, 0#3⟩ [0x01#8] (lines .hi .lo .lo .lo) []).data.length ≤ 1
      ∧ (at_ ⟨.s3a, 0, 0#3⟩ [] (lines .hi .lo .lo .lo) []).data.length ≤ 0 := by decide

/-- ShiftClockLoadsBit, with either bit, and with a chip of one stage and of none. -/
theorem test_wit_shift :
    let s := alone (lines .hi .lo .lo .hi) .ok
    let u := { alone (lines .hi .lo .lo .lo) .ok with
      cfg := ⟨.finite 1, 1, .edge⟩, sr := [true], out := [false] }
    let z := { u with cfg := ⟨.finite 1, 0, .edge⟩, sr := [], out := [] }
    (s.ChipSized ∧ s.answer = .ok ∧ s.wires.shift = .lo ∧ s.wires.clr = .hi
        ∧ s.wires.data = Level.onWire .hi ∧ 2 + 1 < s.cfg.chipDepth)
      ∧ (u.ChipSized ∧ u.answer = .ok ∧ u.wires.shift = .lo ∧ u.wires.clr = .hi
        ∧ u.wires.data = Level.onWire .lo ∧ 0 < u.cfg.chipDepth)
      ∧ z.ChipSized ∧ z.answer = .ok := by decide

/-- ClearEmptiesShiftRegister (both modes, and the edge under clear), LatchClockCopiesRegister. -/
theorem test_wit_clear_latch :
    let s := alone (lines .lo .lo .lo .unknown) .ok
    let u := { s with cfg := ⟨.finite 1, 4, .edge⟩ }
    s.answer = .ok ∧ s.wires.shift = .lo ∧ s.wires.clr = .lo ∧ s.wires.latch = .lo
      ∧ s.cfg.clearMode = .level ∧ u.answer = .ok ∧ u.cfg.clearMode = .edge := by decide

/-- UnknownLevelsStayOpen, each clause. -/
theorem test_wit_unknown :
    let a := alone (lines .hi .unknown .lo .hi) .ok
    let b := alone (lines .unknown .lo .unknown .hi) .ok
    let c := alone (lines .hi .lo .lo .unknown) .ok
    (a.ChipSized ∧ a.answer = .ok ∧ a.wires.shift = .unknown)
      ∧ (b.ChipSized ∧ b.answer = .ok ∧ b.wires.shift = .lo ∧ b.wires.clr = .unknown
        ∧ b.wires.latch = .unknown)
      ∧ c.ChipSized ∧ c.answer = .ok ∧ c.wires.shift = .lo ∧ c.wires.clr = .hi
      ∧ c.wires.data = .unknown := by decide

/-- OtherChangesLeaveChip. -/
theorem test_wit_no_edge :
    let s := alone (lines .lo .hi .hi .unknown) .ok
    s.answer = .ok ∧ s.wires.shift = .hi ∧ s.wires.latch = .hi := by decide

/-- StepRunsDecodedInstruction, each clause. -/
theorem test_wit_decoded :
    let c := idleWith [.command 1#1 [0x01#8], .receive]
    ((inPhase .s4c .ok).xp.phase ≠ .idle
        ∧ decode (.phase (inPhase .s4c .ok).xp.phase.code) = .ok .s4c)
      ∧ (c.xp.phase = .idle ∧ c.host = .command 1#1 [0x01#8] :: [.receive]
        ∧ decode (.command 1#1 [0x01#8]) = .ok (.shiftOutInfallible [0x01#8]))
      ∧ (idleWith []).xp.phase = .idle ∧ (idleWith []).host = [] := by decide

/-- HostMovesBetweenCalls, each move. -/
theorem test_wit_moves :
    let w := lines .lo .hi .unknown .lo
    ∀ m ∈ [HostMove.receive, .useDelay 0#8, .useDelay 255#8, .drive w, .reset],
      (idleWith [m]).xp.phase = .idle ∧ (idleWith [m]).host = m :: [] := by decide

/-- ReservedWordsRefused, each clause at the ends of its range. -/
theorem test_wit_reserved :
    2 ≤ (2#2 : BitVec 2).toNat ∧ 2 ≤ (3#2 : BitVec 2).toNat
      ∧ 2 ≤ (2#8 : BitVec 8).toNat ∧ 2 ≤ (255#8 : BitVec 8).toNat ∧ (1#8 : BitVec 8).toNat < 2
      ∧ (1#2 : BitVec 2) ≠ 0#2 ∧ (3#2 : BitVec 2) ≠ 0#2
      ∧ decode (.micro (0#2 ++ 3#2 ++ 1#8)) = .ok .dataHi
      ∧ decode (.micro (1#2 ++ 0#2 ++ 255#8)) = .ok (.wait 255#8) := by decide

/-- PhaseCodesFollowText, at the ends of the ranges and on each kind of transition. -/
theorem test_wit_codes :
    Phase.inOrder[0]? = some .idle ∧ Phase.inOrder[17]? = some .s4c
      ∧ 18 ≤ (18#5 : PhaseWord).toNat ∧ 18 ≤ (31#5 : PhaseWord).toNat
      ∧ (walkView (step (inPhase .s4c .ok))).map (·.1.phase.code) = some 0#5
      ∧ (walkView (step (inPhase .s1a (.err 0)))).map (·.1.phase.code) = some 0#5
      ∧ (nextPoint 2 ⟨.s3e, 0, 7#3⟩).phase.code = 9#5 ∧ (nextPoint 0 ⟨.s2f, 0, 0#3⟩).phase.code = 15#5
      ∧ (nextPoint 1 ⟨.s3e, 0, 7#3⟩).phase.code = 15#5 ∧ (nextPoint 1 ⟨.s4c, 0, 0#3⟩).phase.code = 0#5 := by
  decide

/-- LegalIsInvariant: in the loop at the last bit of the last byte, at `S4C`, and idle. -/
theorem test_wit_legal :
    let s := at_ ⟨.s3e, 1, 7#3⟩ [0#8, 0#8] (lines .hi .lo .lo .lo) [.ok]
    (s.Legal ∧ ∃ t, step s = .next t)
      ∧ ((inPhase .s4c .ok).Legal ∧ ∃ t, step (inPhase .s4c .ok) = .next t)
      ∧ ((idleWith [.reset]).Legal ∧ ∃ t, step (idleWith [.reset]) = .next t) ∧ s.PointLegal :=
  ⟨⟨by decide, _, rfl⟩, ⟨by decide, _, rfl⟩, ⟨by decide, _, rfl⟩, by decide⟩

/-- A call of the byte 0x01 on its course, at phase `p`, with the wires and the chip given. -/
def onCourseAt (p : Phase) (w : Wires) (sr out : List Bool) : State :=
  { at_ ⟨p, 0, 0#3⟩ [0x01#8] w [.ok] with
    sr := sr, out := out, trace := eventsBefore [0x01#8] ⟨p, 0, 0#3⟩ }

/-- OnCourseIsInvariant: at the first shift edge, and at the latch edge. -/
theorem test_wit_course :
    let s := onCourseAt .s3c1 (lines .hi .lo .lo .hi) [false, false, false, false]
      [true, false, true, false]
    let u := onCourseAt .s4b (lines .hi .lo .lo .lo) [false, false, false, false]
      [true, false, true, false]
    (s.Legal ∧ s.OnCourse ∧ ∃ t, step s = .next t) ∧ u.Legal ∧ u.OnCourse ∧ ∃ t, step u = .next t :=
  ⟨⟨by decide, ⟨by decide, ⟨rfl, rfl, rfl, rfl⟩, rfl⟩, _, rfl⟩,
    by decide, ⟨by decide, ⟨rfl, rfl, rfl, fun _ => rfl⟩, rfl⟩, _, rfl⟩

/-- CallLoadsChip, CallCounts, TracePositions, and TraceOfACall's first part: the empty frame with either
command, and two bytes. -/
theorem test_wit_call :
    CallGoesWell (idleNoErrors [.command 0#1 []]) 0#1 []
      ∧ CallGoesWell (idleNoErrors [.command 1#1 []]) 1#1 []
      ∧ CallGoesWell (idleNoErrors [.command 1#1 [0x01#8, 0xFF#8]]) 1#1 [0x01#8, 0xFF#8] :=
  ⟨⟨⟨by decide, rfl, rfl, .inl rfl⟩, idleNoErrors_allOk _ _⟩,
    ⟨⟨by decide, rfl, rfl, .inr rfl⟩, idleNoErrors_allOk _ _⟩,
    ⟨by decide, rfl, rfl, .inr rfl⟩, idleNoErrors_allOk _ _⟩

/-- TracePositions: the first and the last bit of two bytes. -/
theorem test_wit_positions :
    (0 < 8 * [0x01#8, 0xFF#8].length) ∧ 15 < 8 * ([0x01#8, 0xFF#8] : List Byte).length
      ∧ (frameTrace [0x01#8])[8]? = some (okPin .data .hi)
      ∧ (frameTrace [0x01#8])[8 + 6 * 7]? = some (okPin .data .lo)
      ∧ (frameTrace [0x01#8])[9 + 48 * 1]? = some (okPin .latch .hi) := by decide

/-- TraceOfACall, second part: the first and the last pin operation of a call of one byte. -/
theorem test_wit_failed_call :
    let s := { idleWith [.command 0#1 [0x81#8]] with answers := [.err 0] }
    let u := { s with answers := List.replicate 38 Answer.ok ++ [Answer.err 0] }
    (CallAccepted s 0#1 [0x81#8] ∧ s.AllOk 0 ∧ s.answerAt 0 = .err 0)
      ∧ CallAccepted u 0#1 [0x81#8] ∧ u.AllOk 38 ∧ u.answerAt 38 = .err 0
      ∧ 39 ≤ 7 + 32 * [0x81#8].length := by
  unfold CallAccepted State.AllOk; decide

/-- EveryCallEnds: with a pin operation about to fail, and at the last phase. -/
theorem test_wit_ends :
    (inPhase .s1a (.err 0)).Legal ∧ (inPhase .s1a (.err 0)).xp.phase ≠ .idle
      ∧ (inPhase .s4c .ok).Legal ∧ (inPhase .s4c .ok).xp.phase ≠ .idle := by decide

/-- ClearModesAgree, between `S2A` and `S2B`, where the shift registers differ, and before. -/
theorem test_wit_modes :
    let s := onCourseAt .s2b (lines .lo .lo .lo .unknown) [false, false, false, false]
      [true, true, true, true]
    let t := { s with cfg := ⟨.finite 1, 4, .edge⟩, sr := [true, false, true, true] }
    let u := onCourseAt .s2a (lines .hi .lo .lo .unknown) [true, false, true, true]
      [true, true, true, true]
    let v := { u with cfg := ⟨.finite 1, 4, .edge⟩ }
    (s.Legal ∧ ModesAgree s t ∧ ∃ s', step s = .next s')
      ∧ u.Legal ∧ ModesAgree u v ∧ ∃ u', step u = .next u' :=
  ⟨⟨by decide, ⟨rfl, rfl, by decide, ⟨by decide, ⟨rfl, rfl, rfl⟩, trivial⟩⟩,
      _, rfl⟩,
    by decide, ⟨rfl, rfl, fun _ => rfl, ⟨by decide, ⟨rfl, rfl⟩, trivial⟩⟩,
      _, rfl⟩

/-- TraceIgnoresWiresAndChip: other wires, another chip, other draws, in a call and while idle. -/
theorem test_wit_same_call :
    let s := inPhase .s3a .ok
    let t := { s with
      wires := lines .unknown .hi .hi .unknown, sr := [], cfg := ⟨.finite 1, 9, .edge⟩, draws := 77 }
    SameCall s t ∧ SameCall (idleWith []) { idleWith [] with data := [0x55#8], variant := .infallible } :=
  ⟨⟨rfl, rfl, rfl, rfl, rfl, rfl, fun _ => ⟨rfl, rfl⟩⟩,
    rfl, rfl, rfl, rfl, rfl, rfl, fun h => absurd h (by decide)⟩

/-- OutputsChangeAtLatchOnly: at the latch edge, and at a failed operation (with an output register whose
width alone tells that it changed). -/
theorem test_wit_outputs :
    let s := inPhase .s4b .ok
    let u := { inPhase .s1a (.err 0) with out := [] }
    (s.xp.phase ≠ .idle ∧ ∃ t, step s = .next t ∧ t.out ≠ s.out)
      ∧ u.xp.phase ≠ .idle ∧ ∃ t, step u = .next t ∧ t.out ≠ u.out :=
  ⟨⟨by decide, _, rfl, by decide⟩, by decide, _, rfl,
    fun h => absurd (congrArg List.length h) (by decide)⟩

/-- OneLineAtATime: a pin operation answered either way, and a wait. -/
theorem test_wit_lines :
    (phasePin (inPhase .s3a .ok).data (inPhase .s3a .ok).xp = some (.data, .hi)
        ∧ (inPhase .s3a .ok).answer = .ok ∧ ∃ t, step (inPhase .s3a .ok) = .next t)
      ∧ (phasePin (inPhase .s1b (.err 0)).data (inPhase .s1b (.err 0)).xp = some (.latch, .lo)
        ∧ (inPhase .s1b (.err 0)).answer = .err 0 ∧ ∃ t, step (inPhase .s1b (.err 0)) = .next t)
      ∧ phasePin (inPhase .s4c .ok).data (inPhase .s4c .ok).xp = none
      ∧ ∃ t, step (inPhase .s4c .ok) = .next t :=
  ⟨⟨rfl, by decide, _, rfl⟩, ⟨rfl, by decide, _, rfl⟩, rfl, _, rfl⟩

/-- IdleBlockIsSilent, with each move. -/
theorem test_wit_silent :
    (∃ t, step (idleWith []) = .next t) ∧ (∃ t, step (idleWith [.command 0#1 []]) = .next t)
      ∧ (∃ t, step (idleWith [.drive (lines .lo .hi .lo .hi)]) = .next t)
      ∧ (∃ t, step (idleWith [.useDelay 7#8]) = .next t) ∧ (∃ t, step (idleWith [.receive]) = .next t)
      ∧ ∃ t, step (idleWith [.reset]) = .next t :=
  ⟨⟨_, rfl⟩, ⟨_, rfl⟩, ⟨_, rfl⟩, ⟨_, rfl⟩, ⟨_, rfl⟩, _, rfl⟩

/-- ResponseAtTwoPlaces, ParametersNeverChange: a step that goes on, the last step, and a
step that fails. -/
theorem test_wit_responses :
    (∃ t, (inPhase .s3d .ok).xp.phase ≠ .idle ∧ step (inPhase .s3d .ok) = .next t
        ∧ t.xp.phase ≠ .idle)
      ∧ (∃ t, (inPhase .s4c .ok).xp.phase ≠ .idle ∧ step (inPhase .s4c .ok) = .next t
        ∧ t.response = some .ok)
      ∧ ∃ t, (inPhase .s3d (.err 0)).xp.phase ≠ .idle ∧ step (inPhase .s3d (.err 0)) = .next t
        ∧ t.response = some (.err 0) :=
  ⟨⟨_, by decide, rfl, by decide⟩, ⟨_, by decide, rfl, rfl⟩, _, by decide, rfl, rfl⟩

/-- AnswersAreDraws: with no error value, with the greatest of three, and with countably many. -/
theorem test_wit_draws :
    (idleNoErrors []).cfg.errs.isEmpty = true ∧ ErrType.contains (.finite 3) 2 = true
      ∧ ErrType.contains .countable 1000 = true
      ∧ { idleWith [] with wires := lines .lo .lo .lo .lo }.answers = (idleWith []).answers := by decide

end Sys2Proof.Tests
end

section
/-!
PROOFS. What a step from `IDLE` can be (R151, R245), and that no step changes the parameters (R7, R21).
-/

namespace Sys2Proof.Machine

/-- A command word that arrives at `IDLE`: it starts a call, or the platform does not offer it
(R111, R112). -/
theorem step_of_command {s : State} {w : CommandWord} {frame : List Byte} {rest : List HostMove}
    (h : s.xp.phase = .idle) (hh : s.host = .command w frame :: rest) :
    step s =
      if w = 0#1 then .next (State.startCall { s with host := rest } .shiftOut frame)
      else if s.cfg.errs.isEmpty then .next (State.startCall { s with host := rest } .infallible frame)
      else .refused .infallibleNotOffered := by
  have hb : State.busy { s with host := rest } = false := by simp [State.busy, h]
  rw [step_of_move h hh]
  by_cases hw : w = 0#1
  · simp [State.onHostMove, decode, decodeCommand, hw, exec, execShiftOut, hb]
  · simp [State.onHostMove, decode, decodeCommand, hw, exec, execShiftOutInfallible, hb]

/-- What a step from `IDLE` that goes on has done: nothing, started a call, or made one of the host's
other moves (R117, R151, R245). -/
theorem step_idle_next_cases {s t : State} (h : s.xp.phase = .idle) (hs : step s = .next t) :
    (s.host = [] ∧ t = s)
    ∨ (∃ w frame rest v, s.host = .command w frame :: rest
        ∧ (w = 0#1 ∧ v = .shiftOut ∨ w ≠ 0#1 ∧ s.cfg.errs.isEmpty = true ∧ v = .infallible)
        ∧ t = State.startCall { s with host := rest } v frame)
    ∨ (∃ m rest, s.host = m :: rest ∧ State.onHostMove { s with host := rest } m = .moved t) := by
  cases hh : s.host with
  | nil =>
    rw [step_of_idle h hh] at hs
    cases hs
    exact .inl ⟨rfl, rfl⟩
  | cons m rest =>
    cases m with
    | command w frame =>
      right; left
      rw [step_of_command h hh] at hs
      split at hs
      next hw => cases hs; exact ⟨w, frame, rest, _, rfl, .inl ⟨hw, rfl⟩, rfl⟩
      next hw =>
        split at hs
        next he => cases hs; exact ⟨w, frame, rest, _, rfl, .inr ⟨hw, he, rfl⟩, rfl⟩
        next => cases hs
    | receive | drive | useDelay | reset =>
      right; right
      rw [step_of_move h hh] at hs
      cases hs
      exact ⟨_, rest, rfl, rfl⟩

/-- A move of the host that is no instruction leaves the parameters (R245). -/
theorem State.onHostMove_moved_cfg {s t : State} {m : HostMove} (hm : s.onHostMove m = .moved t) :
    t.cfg = s.cfg := by
  cases m <;> cases hm <;> rfl

/-- `Pin(l, v)` leaves the parameters, whatever the answer, if what an `ok` leads on to does. -/
theorem State.pin_cfg (s : State) (l : Line) (v : Level) {andThen : State → State}
    (hk : ∀ u, (andThen u).cfg = u.cfg) : (s.pin l v andThen).cfg = s.cfg := by
  cases ha : s.answer with
  | ok => rw [State.pin_ok ha, hk, State.pinDone_cfg]
  | err e => rw [State.pin_err ha, State.pinFailed_eq]

/-- A step of a call leaves the parameters. -/
theorem step_busy_cfg {s t : State} (h : s.xp.phase ≠ .idle) (hs : step s = .next t) :
    t.cfg = s.cfg := by
  rcases step_busy_cases h with ⟨l, v, -, -, hpin⟩ | ⟨-, -, -, hwait⟩ | ⟨-, hend⟩ | ⟨-, -, hstop⟩
  · rw [hpin] at hs; cases hs; exact s.pin_cfg l v fun _ => rfl
  · rw [hwait] at hs; cases hs; rfl
  · rw [hend] at hs; cases hs; rfl
  · rw [hstop] at hs; cases hs

/-- A step from `IDLE` leaves the parameters. -/
theorem step_idle_cfg {s t : State} (h : s.xp.phase = .idle) (hs : step s = .next t) :
    t.cfg = s.cfg := by
  rcases step_idle_next_cases h hs with ⟨-, rfl⟩ | ⟨_, _, _, _, -, -, rfl⟩ | ⟨_, _, -, hm⟩
  · rfl
  · rfl
  · have hcfg := State.onHostMove_moved_cfg hm
    exact hcfg

/-- Settles O42: a step of a call and a step from `IDLE` both leave the parameters. -/
theorem parametersNeverChange : Obligations.ParametersNeverChange := by
  intro s t hs
  by_cases h : s.xp.phase = .idle
  · exact step_idle_cfg h hs
  · exact step_busy_cfg h hs

end Sys2Proof.Machine
end

section
/-!
PROOFS. The state after reset (R40), and the two-state argument that what a call issues does not depend on
wires, chip or earlier calls (R34, R36, R178): every operation on the state keeps `SameCall`.
-/

namespace Sys2Proof.Machine

/-! Idle states and reset -/

theorem State.reset_chipSized : State.reset.ChipSized :=
  ⟨freeStages_length _ _, freeStages_length _ _⟩

/-- At rest only the widths of the chip's registers are left to say (R36, R169, R230). -/
theorem State.legal_of_rest {s : State} (h : s.xp = .rest) (hc : s.ChipSized) : s.Legal := by
  have hpoint : s.PointLegal := by rw [State.PointLegal, h]; exact ⟨rfl, rfl⟩
  have hoffered : s.VariantOffered := fun hb => absurd (congrArg ExecPoint.phase h) ((s.busy_iff).mp hb)
  exact ⟨hpoint, hc, hoffered⟩

/-- While idle nothing is said of trace, wires and chip (R34). -/
theorem State.onCourse_of_idle {s : State} (h : s.xp.phase = .idle) : s.OnCourse := by
  have htrace : s.TraceOnCourse := fun hb => absurd h ((s.busy_iff).mp hb)
  have hwires : s.WiresOnCourse := by simp [State.WiresOnCourse, h]
  have hchip : s.ChipOnCourse := by simp [State.ChipOnCourse, h]
  exact ⟨htrace, hwires, hchip⟩

/-- Settles O1: every stated value is in `State.reset` itself; the two widths are those of a drawn register. -/
theorem resetValues : Obligations.ResetValues := by
  have hwires : ∀ l : Line, State.reset.wires.get l = .unknown := by intro l; cases l <;> rfl
  obtain ⟨hsr, hout⟩ := State.reset_chipSized
  exact ⟨rfl, hwires, rfl, rfl, hsr, hout⟩

/-- Settles O2: reset is at rest, where both invariants come down to the chip's widths. -/
theorem resetIsLegal : Obligations.ResetIsLegal :=
  ⟨State.legal_of_rest rfl State.reset_chipSized, State.onCourse_of_idle rfl⟩

/-! What a step of a call is, by the phase's own operation: the equations behind `step_busy_cases` -/

theorem phase_ne_idle_of_phasePin {data : List Byte} {x : ExecPoint} {p : Line × Level}
    (h : phasePin data x = some p) : x.phase ≠ .idle := by
  intro hi
  simp [phasePin, hi] at h

/-- A phase that issues a pin operation (R93, R174). -/
theorem step_of_phasePin {s : State} {l : Line} {v : Level} (hp : phasePin s.data s.xp = some (l, v)) :
    step s = .next (s.pin l v (·.goto (nextPoint s.data.length s.xp))) := by
  rcases step_busy_cases (phase_ne_idle_of_phasePin hp) with
    ⟨l', v', hp', -, hs⟩ | ⟨hnone, -⟩ | ⟨h4, -⟩ | ⟨h3, hb, -⟩
  · rw [hp] at hp'; cases hp'; exact hs
  · rw [hp] at hnone; cases hnone
  · simp [phasePin, h4] at hp
  · simp [phasePin, h3, hb] at hp

/-- A phase that waits and goes on (R139, R174). -/
theorem step_of_wait_phase {s : State} (h : s.xp.phase ≠ .idle) (hp : phasePin s.data s.xp = none)
    (h4 : s.xp.phase ≠ .s4c) (h3 : s.xp.phase ≠ .s3a) :
    step s = .next ((s.record (.wait delayUnit)).goto (nextPoint s.data.length s.xp)) := by
  rcases step_busy_cases h with ⟨_, _, hp', -⟩ | ⟨-, -, -, hs⟩ | ⟨h4', -⟩ | ⟨h3', -⟩
  · rw [hp] at hp'; cases hp'
  · exact hs
  · exact absurd h4' h4
  · exact absurd h3' h3

/-- The last wait of a call (R168). -/
theorem step_of_s4c {s : State} (h : s.xp.phase = .s4c) :
    step s = .next ((s.record (.wait delayUnit)).respond .ok) := by
  rw [step_of_busy (by simp [h]), h]; rfl

/-- A frame read outside the frame (R52). -/
theorem step_of_s3a_outside {s : State} (h : s.xp.phase = .s3a) (hb : s.data[s.xp.byteIdx]? = none) :
    step s = .fault .frameIndexOutside := by
  rw [step_of_busy (by simp [h]), h]
  simp [Phase.toInstr, exec, execS3A, frameRead, hb]

/-! `SameCall` is kept by every operation on the state -/

section SameCall
variable {s t : State}

theorem SameCall.xp_eq (h : SameCall s t) : t.xp = s.xp := h.1

theorem SameCall.errs_eq (h : SameCall s t) : t.cfg.errs = s.cfg.errs := by
  obtain ⟨-, -, herrs, -⟩ := h
  exact herrs

theorem SameCall.host_eq (h : SameCall s t) : t.host = s.host := by
  obtain ⟨-, -, -, hhost, -⟩ := h
  exact hhost

theorem SameCall.data_eq (h : SameCall s t) (hb : s.xp.phase ≠ .idle) : t.data = s.data := by
  obtain ⟨-, -, -, -, -, -, hops⟩ := h
  exact (hops ((s.busy_iff).mpr hb)).2

/-- The lines answer alike (R131). -/
theorem SameCall.answer_eq (h : SameCall s t) : t.answer = s.answer := by
  obtain ⟨-, -, herrs, -, hans, hasked, -⟩ := h
  exact State.answerAt_congr herrs hans hasked 0

theorem SameCall.record (h : SameCall s t) (ev : Event) : SameCall (s.record ev) (t.record ev) := by
  obtain ⟨hxp, htrace, hrest⟩ := h
  exact ⟨hxp, congrArg (· ++ [ev]) htrace, hrest⟩

/-- Within a call the operands agree at the next point too. -/
theorem SameCall.goto (h : SameCall s t) (hb : s.xp.phase ≠ .idle) (x : ExecPoint) :
    SameCall (s.goto x) (t.goto x) := by
  obtain ⟨-, htrace, herrs, hhost, hans, hasked, hops⟩ := h
  exact ⟨rfl, htrace, herrs, hhost, hans, hasked, fun _ => hops ((s.busy_iff).mpr hb)⟩

/-- The operands are dropped, and at rest nothing reads them (R35, R114). -/
theorem SameCall.respond (h : SameCall s t) (r : Response) : SameCall (s.respond r) (t.respond r) := by
  obtain ⟨-, htrace, herrs, hhost, hans, hasked, -⟩ := h
  exact ⟨rfl, htrace, herrs, hhost, hans, hasked, nofun⟩

theorem SameCall.pinDone (h : SameCall s t) (l : Line) (v : Level) :
    SameCall (s.pinDone l v) (t.pinDone l v) := by
  obtain ⟨hxp, htrace, herrs, hhost, hans, hasked, hops⟩ := h
  have hops' : s.xp.phase ≠ .idle → t.variant = s.variant ∧ t.data = s.data := by simpa using hops
  simpa [SameCall, hxp, htrace, herrs, hhost, hans, hasked] using hops'

theorem SameCall.pinFailed (h : SameCall s t) (l : Line) (v : Level) (e : ErrCode) :
    SameCall (s.pinFailed l v e) (t.pinFailed l v e) := by
  obtain ⟨-, htrace, herrs, hhost, hans, hasked, -⟩ := h
  exact ⟨rfl, congrArg (· ++ [Event.pin l v (.err e)]) htrace, herrs, hhost,
    congrArg List.tail hans, congrArg (· + 1) hasked, nofun⟩

/-- `Pin(l, v)` of a call, whatever the answer (R130, R142). -/
theorem SameCall.pin_goto (h : SameCall s t) (hb : s.xp.phase ≠ .idle) (l : Line) (v : Level)
    (x : ExecPoint) : SameCall (s.pin l v (·.goto x)) (t.pin l v (·.goto x)) := by
  cases ha : s.answer with
  | ok =>
    rw [State.pin_ok ha, State.pin_ok (h.answer_eq.trans ha)]
    exact (h.pinDone l v).goto (by simpa using hb) x
  | err e =>
    rw [State.pin_err ha, State.pin_err (h.answer_eq.trans ha)]
    exact h.pinFailed l v e

/-- The host's move has been taken off the list (log 4). -/
theorem SameCall.takeMove (h : SameCall s t) (rest : List HostMove) :
    SameCall { s with host := rest } { t with host := rest } := by
  obtain ⟨hxp, htrace, herrs, -, hans, hasked, hops⟩ := h
  exact ⟨hxp, htrace, herrs, rfl, hans, hasked, hops⟩

theorem SameCall.startCall (h : SameCall s t) (v : Variant) (frame : List Byte) :
    SameCall (s.startCall v frame) (t.startCall v frame) := by
  obtain ⟨-, -, herrs, hhost, hans, hasked, -⟩ := h
  exact ⟨rfl, rfl, herrs, hhost, hans, hasked, fun _ => ⟨rfl, rfl⟩⟩

/-- The response is no part of `SameCall`. -/
theorem SameCall.received (h : SameCall s t) : SameCall s.received t.received := h

/-- Wires and chip are no part of `SameCall` (R245 row 6). -/
theorem SameCall.driven (h : SameCall s t) (w : Wires) : SameCall (s.driven w) (t.driven w) := h

theorem SameCall.resetEvent (h : SameCall s t) : SameCall s.resetEvent t.resetEvent := by
  obtain ⟨-, -, herrs, hhost, hans, hasked, -⟩ := h
  exact ⟨rfl, rfl, herrs, hhost, hans, hasked, nofun⟩

/-- A step of a call: the operation depends on the point and the frame, its result on the answer. -/
theorem SameCall.step_busy (h : SameCall s t) (hb : s.xp.phase ≠ .idle) :
    SameOutcome (step s) (step t) := by
  have hxp := h.xp_eq
  have hdata := h.data_eq hb
  rcases step_busy_cases hb with
    ⟨l, v, hp, -, hs⟩ | ⟨hp, h4, h3, hs⟩ | ⟨h4, hs⟩ | ⟨h3, hout, hs⟩
  · rw [hs, step_of_phasePin (by rw [hdata, hxp]; exact hp), hdata, hxp]
    exact h.pin_goto hb l v _
  · rw [hs, step_of_wait_phase (by rwa [hxp]) (by rw [hdata, hxp]; exact hp) (by rwa [hxp])
      (by rwa [hxp]), hdata, hxp]
    exact (h.record _).goto hb _
  · rw [hs, step_of_s4c (by rwa [hxp])]
    exact (h.record _).respond .ok
  · rw [hs, step_of_s3a_outside (by rwa [hxp]) (by rwa [hdata, hxp])]
    exact rfl

/-- A step from `IDLE`: the host's next move is the same, and it reads nothing that may differ. -/
theorem SameCall.step_idle (h : SameCall s t) (hi : s.xp.phase = .idle) :
    SameOutcome (step s) (step t) := by
  have hi' : t.xp.phase = .idle := by rwa [h.xp_eq]
  cases hh : s.host with
  | nil =>
    rw [step_of_idle hi hh, step_of_idle hi' (h.host_eq.trans hh)]
    exact h
  | cons m rest =>
    have hh' := h.host_eq.trans hh
    have htaken := h.takeMove rest
    cases m with
    | command w frame =>
      rw [step_of_command hi hh, step_of_command hi' hh', h.errs_eq]
      split
      next => exact htaken.startCall .shiftOut frame
      next =>
        split
        next => exact htaken.startCall .infallible frame
        next => exact rfl
    | receive => rw [step_of_move hi hh, step_of_move hi' hh']; exact htaken.received
    | drive w => rw [step_of_move hi hh, step_of_move hi' hh']; exact htaken.driven w
    | useDelay n => rw [step_of_move hi hh, step_of_move hi' hh']; exact htaken
    | reset => rw [step_of_move hi hh, step_of_move hi' hh']; exact htaken.resetEvent

end SameCall

/-- Settles O38: a step of a call and a step from `IDLE` both keep `SameCall`. -/
theorem traceIgnoresWiresAndChip : Obligations.TraceIgnoresWiresAndChip := by
  intro s t h
  by_cases hi : s.xp.phase = .idle
  · exact h.step_idle hi
  · exact h.step_busy hi

end Sys2Proof.Machine
end

section
/-!
PROOFS. The wires under a step of a call (R31, R59), and the frame read outside the frame (R52).
-/

namespace Sys2Proof.Machine

/-! `Pin(l, v)` and the wires: it writes wire `l`, by its answer (R130, R139) -/

section
variable {s : State} {l : Line} {v : Level} {andThen : State → State}

theorem State.pin_wires_of_ok (ha : s.answer = .ok) (hk : ∀ u, (andThen u).wires = u.wires) :
    (s.pin l v andThen).wires = s.wires.set l (Level.onWire v) := by
  rw [State.pin_ok ha, hk, State.pinDone_wires]

theorem State.pin_wires_of_err {e : ErrCode} (ha : s.answer = .err e) :
    (s.pin l v andThen).wires = s.wires.set l .unknown := by
  rw [State.pin_err ha, State.pinFailed_eq]

/-- The frame of a pin operation, whatever the answer. -/
theorem State.pin_wires_other {k : Line} (hkl : k ≠ l) (hk : ∀ u, (andThen u).wires = u.wires) :
    (s.pin l v andThen).wires.get k = s.wires.get k := by
  cases ha : s.answer with
  | ok => rw [State.pin_wires_of_ok ha hk, Wires.get_set_other _ _ hkl]
  | err e => rw [State.pin_wires_of_err ha, Wires.get_set_other _ _ hkl]

end

/-- A step of a call whose phase issues no pin operation leaves the wires: it waits, or ends the call
(R139, R168). -/
theorem step_wires_of_no_phasePin {s t : State} (h : s.xp.phase ≠ .idle)
    (hp : phasePin s.data s.xp = none) (hs : step s = .next t) : t.wires = s.wires := by
  rcases step_busy_cases h with ⟨_, _, hp', -⟩ | ⟨-, -, -, hwait⟩ | ⟨-, hend⟩ | ⟨-, -, hstop⟩
  · rw [hp] at hp'; cases hp'
  · rw [hwait] at hs; cases hs; rfl
  · rw [hend] at hs; cases hs; rfl
  · rw [hstop] at hs; cases hs

/-- Settles O43: with a pin operation the step is `Pin(l, v)` and an advance that leaves the wires; without
one it is a wait or the end of the call. -/
theorem oneLineAtATime : Obligations.OneLineAtATime := by
  intro s t h hs
  refine ⟨fun l v hp => ?_, fun hp => step_wires_of_no_phasePin h hp hs⟩
  rw [step_of_phasePin hp] at hs
  cases hs
  have hgoto : ∀ u : State, (u.goto (nextPoint s.data.length s.xp)).wires = u.wires := fun _ => rfl
  refine ⟨fun k hkl => State.pin_wires_other hkl hgoto, fun ha => ?_, fun e ha => ?_⟩
  · rw [State.pin_wires_of_ok ha hgoto, Wires.get_set_same]
  · rw [State.pin_wires_of_err ha, Wires.get_set_same]

/-! `FrameRead` outside the frame -/

/-- Where `FrameRead` is undefined (R52). -/
theorem frameRead_eq_none_iff {data : List Byte} {i : Nat} :
    frameRead data i = none ↔ data.length ≤ i :=
  List.getElem?_eq_none_iff

/-- Settles O17: `S3A` stops where `FrameRead` has no byte. -/
theorem frameReadOutsideStops : Obligations.FrameReadOutsideStops := by
  intro s h
  have hread : frameRead s.data s.xp.byteIdx = none := frameRead_eq_none_iff.mpr h
  simp only [exec, execS3A, hread]

end Sys2Proof.Machine
end

section
/-!
PROOFS. Decoding and encoding, format by format (R80 to R98): for each format which words are an instruction's,
which instruction it is, and by what name the others are refused.
-/

namespace Sys2Proof

/-! Format C (R81, R82) -/

theorem decodeCommand_eq_iff (w : CommandWord) (frame : List Byte) (i : Instr) :
    decodeCommand w frame = i ↔ encode i = .command w frame := by
  have hbit : w = 0#1 ∨ w = 1#1 := by revert w; decide
  constructor
  · rintro rfl
    obtain rfl | rfl := hbit <;> rfl
  · intro h
    cases i with
    | shiftOut data => cases h; rfl
    | shiftOutInfallible data => cases h; rfl
    | _ => cases h

/-! Format M by its fields `kind`, `line` and `arg` (R85) -/

/-- The code of a line in the field `line` (R86). -/
def Line.code : Line → BitVec 2
  | .clr => 0#2
  | .shift => 1#2
  | .latch => 2#2
  | .data => 3#2

/-- The code of a level in the field `arg` of a pin operation (R87). -/
def Level.arg : Level → BitVec 8
  | .lo => 0#8
  | .hi => 1#8

/-- The word of the pin operation that drives line `l` to level `v` (R87). -/
def pinWord (l : Line) (v : Level) : MicroWord := 0#2 ++ l.code ++ v.arg

/-- The word of `WAIT n` (R89). -/
def waitWord (n : Byte) : MicroWord := 1#2 ++ 0#2 ++ n

@[simp] theorem Line.ofCode_code (l : Line) : Line.ofCode l.code = l := by
  cases l <;> rfl

/-- All four values of `line` are used (R86). -/
theorem Line.exists_code (c : BitVec 2) : ∃ l : Line, l.code = c :=
  ⟨Line.ofCode c, by revert c; decide⟩

theorem Level.exists_arg {arg : BitVec 8} (h : arg.toNat < 2) : ∃ v : Level, v.arg = arg := by
  have harg : arg = 0#8 ∨ arg = 1#8 := by bv_omega
  obtain rfl | rfl := harg
  · exact ⟨.lo, rfl⟩
  · exact ⟨.hi, rfl⟩

section Fields
variable (kind line : BitVec 2) (arg : BitVec 8)

@[simp] theorem microWord_kind : (kind ++ line ++ arg).extractLsb' 10 2 = kind := by
  rw [BitVec.extractLsb'_append_eq_of_le (by decide)]
  exact BitVec.extractLsb'_append_eq_left

@[simp] theorem microWord_line : (kind ++ line ++ arg).extractLsb' 8 2 = line := by
  rw [BitVec.extractLsb'_append_eq_of_le (by decide)]
  exact BitVec.extractLsb'_append_eq_right

@[simp] theorem microWord_arg : (kind ++ line ++ arg).extractLsb' 0 8 = arg :=
  BitVec.extractLsb'_append_eq_right

end Fields

/-- Every format-M word is made of its three fields (R85). -/
theorem microWord_eq_append (w : MicroWord) :
    ∃ (kind line : BitVec 2) (arg : BitVec 8), w = kind ++ line ++ arg := by
  refine ⟨w.extractLsb' 10 2, w.extractLsb' 8 2, w.extractLsb' 0 8, ?_⟩
  rw [BitVec.extractLsb'_append_extractLsb'_eq_extractLsb' (rfl : 10 = 8 + 2)]
  exact (BitVec.extractLsb'_append_extractLsb' (w := 4) (len := 8)).symm

theorem decodeMicro_pinWord (l : Line) (v : Level) :
    decodeMicro (pinWord l v) = .ok (Instr.ofPin l v) := by
  cases v <;> simp [decodeMicro, pinWord, Level.arg]

theorem decodeMicro_waitWord (n : Byte) : decodeMicro (waitWord n) = .ok (.wait n) := by
  simp [decodeMicro, waitWord, -BitVec.reduceAppend]

theorem decodeMicro_reservedKind {kind : BitVec 2} (line : BitVec 2) (arg : BitVec 8)
    (h : 2 ≤ kind.toNat) : decodeMicro (kind ++ line ++ arg) = .error .reservedKind := by
  have h0 : kind ≠ 0#2 := by bv_omega
  have h1 : kind ≠ 1#2 := by bv_omega
  simp [decodeMicro, h0, h1]

theorem decodeMicro_reservedArg (line : BitVec 2) {arg : BitVec 8} (h : 2 ≤ arg.toNat) :
    decodeMicro (0#2 ++ line ++ arg) = .error .reservedArg := by
  have h0 : arg ≠ 0#8 := by bv_omega
  have h1 : arg ≠ 1#8 := by bv_omega
  simp [decodeMicro, h0, h1]

theorem decodeMicro_reservedLine {line : BitVec 2} (arg : BitVec 8) (h : line ≠ 0#2) :
    decodeMicro (1#2 ++ line ++ arg) = .error .reservedLine := by
  simp [decodeMicro, h]

/-- A format-M word is a pin operation's, a wait's or reserved (R87, R89, R94). -/
theorem microWord_cases (w : MicroWord) :
    (∃ l v, w = pinWord l v) ∨ (∃ n, w = waitWord n) ∨ ∃ why, decodeMicro w = .error why := by
  obtain ⟨kind, line, arg, rfl⟩ := microWord_eq_append w
  have hkind : kind = 0#2 ∨ kind = 1#2 ∨ 2 ≤ kind.toNat := by bv_omega
  obtain rfl | rfl | hkind := hkind
  · by_cases harg : arg.toNat < 2
    · obtain ⟨l, rfl⟩ := Line.exists_code line
      obtain ⟨v, rfl⟩ := Level.exists_arg harg
      exact .inl ⟨l, v, rfl⟩
    · exact .inr (.inr ⟨_, decodeMicro_reservedArg line (Nat.le_of_not_lt harg)⟩)
  · by_cases hline : line = 0#2
    · subst hline
      exact .inr (.inl ⟨arg, rfl⟩)
    · exact .inr (.inr ⟨_, decodeMicro_reservedLine arg hline⟩)
  · exact .inr (.inr ⟨_, decodeMicro_reservedKind line arg hkind⟩)

theorem encode_ofPin (l : Line) (v : Level) : encode (Instr.ofPin l v) = .micro (pinWord l v) := by
  cases l <;> cases v <;> rfl

theorem encode_wait (n : Byte) : encode (.wait n) = .micro (waitWord n) := rfl

theorem encode_of_decodeMicro {w : MicroWord} {i : Instr} (h : decodeMicro w = .ok i) :
    encode i = .micro w := by
  rcases microWord_cases w with ⟨l, v, rfl⟩ | ⟨n, rfl⟩ | ⟨why, hwhy⟩
  · rw [decodeMicro_pinWord] at h; cases h; exact encode_ofPin l v
  · rw [decodeMicro_waitWord] at h; cases h; exact encode_wait n
  · rw [hwhy] at h; cases h

/-! Format P (R92, R96) -/

theorem Phase.inOrder_code (p : Phase) : Phase.inOrder[p.code.toNat]? = some p := by
  cases p <;> rfl

/-- The phases stand in the order of their codes, each once (R92). -/
theorem Phase.inOrder_eq_some_iff {k : Nat} {p : Phase} :
    Phase.inOrder[k]? = some p ↔ p.code.toNat = k := by
  constructor
  · intro h
    obtain ⟨hk, -⟩ := List.getElem?_eq_some_iff.mp h
    have hnodup : Phase.inOrder.Nodup := by decide
    exact ((List.getElem?_inj hk hnodup).mp (h.trans p.inOrder_code.symm)).symm
  · rintro rfl
    exact p.inOrder_code

theorem Phase.code_of_ofCode {w : PhaseWord} {p : Phase} (h : Phase.ofCode w = .ok p) : p.code = w := by
  cases hp : Phase.inOrder[w.toNat]? with
  | none => simp [Phase.ofCode, hp] at h
  | some q =>
    obtain rfl : q = p := by simpa [Phase.ofCode, hp] using h
    exact BitVec.eq_of_toNat_eq (Phase.inOrder_eq_some_iff.mp hp)

/-- The codes 18 to 31 name no phase (R96). -/
theorem Phase.ofCode_reserved {w : PhaseWord} (h : 18 ≤ w.toNat) :
    Phase.ofCode w = .error .reservedPhase := by
  have hp : Phase.inOrder[w.toNat]? = none := List.getElem?_eq_none h
  simp [Phase.ofCode, hp]

theorem encode_toInstr (p : Phase) : encode p.toInstr = .phase p.code := by
  cases p <;> rfl

theorem encode_of_decode_phase {w : PhaseWord} {i : Instr} (h : decode (.phase w) = .ok i) :
    encode i = .phase w := by
  cases hp : Phase.ofCode w with
  | error why => simp [decode, hp, Except.map] at h
  | ok p =>
    obtain rfl : p.toInstr = i := by simpa [decode, hp, Except.map] using h
    rw [encode_toInstr, Phase.code_of_ofCode hp]

/-! The three formats together -/

/-- An instruction's word decodes to it: the wait by its field, the others by their rows. -/
theorem decode_encode (i : Instr) : decode (encode i) = .ok i := by
  cases i with
  | wait n => exact decodeMicro_waitWord n
  | _ => rfl

theorem encode_of_decode {w : Word} {i : Instr} (h : decode w = .ok i) : encode i = w := by
  cases w with
  | command w frame => exact (decodeCommand_eq_iff w frame i).mp (Except.ok.inj h)
  | micro w => exact encode_of_decodeMicro h
  | phase w => exact encode_of_decode_phase h

/-- Settles O27, by the two directions. -/
theorem decodeIffEncode : Obligations.DecodeIffEncode := by
  intro w i
  constructor
  · exact encode_of_decode
  · rintro rfl
    exact decode_encode i

/-- Settles O28: each word is its instruction's (DecodeIffEncode). -/
theorem sampleWordsDecode : Obligations.SampleWordsDecode :=
  ⟨(decodeIffEncode _ _).mpr rfl, (decodeIffEncode _ _).mpr rfl, (decodeIffEncode _ _).mpr rfl,
    (decodeIffEncode _ _).mpr rfl⟩

end Sys2Proof
end

section
/-!
PROOFS. The words and codes under a step: no step meets a reserved word (R94, R96, R97), how a step moves
through the phase codes (R92), and that a phase runs the micro-operation of its word (R93).
-/

namespace Sys2Proof.Machine

/-! Reserved words -/

/-- A phase's own code, and either command word, is no reserved word. -/
theorem step_ne_reservedWord (s : State) (why : DecodeError) :
    step s ≠ .refused (.reservedWord why) := by
  by_cases h : s.xp.phase = .idle
  · cases hh : s.host with
    | nil => rw [step_of_idle h hh]; nofun
    | cons m rest =>
      cases m with
      | command w frame =>
        rw [step_of_command h hh]
        split
        next => nofun
        next => split <;> nofun
      | receive | drive | useDelay | reset => rw [step_of_move h hh]; nofun
  · rcases step_busy_cases h with ⟨_, _, -, -, hs⟩ | ⟨-, -, -, hs⟩ | ⟨-, hs⟩ | ⟨-, -, hs⟩ <;>
      rw [hs] <;> nofun

/-- Settles O26, by the three fields of the word. -/
theorem reservedWordsRefused : Obligations.ReservedWordsRefused := by
  refine ⟨fun kind line arg => ⟨decodeMicro_reservedKind line arg, ?_, ?_, ?_⟩, step_ne_reservedWord⟩
  · rintro rfl harg
    exact decodeMicro_reservedArg line harg
  · rintro rfl hline
    exact decodeMicro_reservedLine arg hline
  · rintro (⟨rfl, harg⟩ | ⟨rfl, rfl⟩)
    · obtain ⟨l, rfl⟩ := Line.exists_code line
      obtain ⟨v, rfl⟩ := Level.exists_arg harg
      exact ⟨_, decodeMicro_pinWord l v⟩
    · exact ⟨_, decodeMicro_waitWord arg⟩

/-! Phase codes -/

/-- Where `S3E` leads is the next code or the loop-back (R165). -/
theorem afterBit_phase (len i : Nat) (j : BitVec 3) :
    (afterBit len i j).phase = .s3a ∨ (afterBit len i j).phase = .s4a := by
  unfold afterBit
  split
  next => exact .inl rfl
  next => split <;> simp

/-- The next-phase function is the code plus one, but for the loop-back and the empty frame (R92, R174). -/
theorem nextPoint_code_cases (data : List Byte) {x : ExecPoint} (hi : x.phase ≠ .idle) (h4 : x.phase ≠ .s4c) :
    (nextPoint data.length x).phase.code.toNat = x.phase.code.toNat + 1
      ∨ (x.phase.code.toNat = 14 ∧ (nextPoint data.length x).phase.code.toNat = 9)
      ∨ (x.phase.code.toNat = 8 ∧ (nextPoint data.length x).phase.code.toNat = 15 ∧ data = []) := by
  cases hp : x.phase
  case idle => exact absurd hp hi
  case s4c => exact absurd hp h4
  case s2f =>
    rcases afterClear_cases data with ⟨hdata, hx⟩ | ⟨-, hx⟩
    · right; right; simp only [nextPoint, hp, hx]; exact ⟨rfl, rfl, hdata⟩
    · left; simp only [nextPoint, hp, hx]; rfl
  case s3e =>
    rcases afterBit_phase data.length x.byteIdx x.bitIdx with hx | hx <;>
      simp [nextPoint, hp, hx, Phase.code]
  all_goals
    left
    simp [nextPoint, hp, Phase.code]

/-- Where a pin operation of a call leads, by its answer (R130, R177). -/
theorem State.pin_goto_xp (s : State) (l : Line) (v : Level) (x : ExecPoint) :
    (s.pin l v (·.goto x)).xp = x
      ∨ (s.pin l v (·.goto x)).xp = .rest ∧ ∃ e, s.answer = .err e := by
  cases ha : s.answer with
  | ok => left; rw [State.pin_ok ha, State.goto_xp]
  | err e => right; rw [State.pin_err ha, State.pinFailed_eq]; exact ⟨rfl, e, rfl⟩

/-- Where a step of a call leads: on by the next-phase function, or to rest, after `S4C` or a failed pin
operation (R174, R177). -/
theorem step_busy_xp {s t : State} (h : s.xp.phase ≠ .idle) (hs : step s = .next t) :
    (s.xp.phase ≠ .s4c ∧ t.xp = nextPoint s.data.length s.xp)
      ∨ (t.xp = .rest ∧ (s.xp.phase = .s4c ∨ ∃ e, s.answer = .err e)) := by
  rcases step_busy_cases h with
    ⟨l, v, -, h4, hpin⟩ | ⟨-, h4, -, hwait⟩ | ⟨h4, hend⟩ | ⟨-, -, hstop⟩
  · rw [hpin] at hs
    cases hs
    rcases s.pin_goto_xp l v (nextPoint s.data.length s.xp) with hx | ⟨hx, herr⟩
    · exact .inl ⟨h4, hx⟩
    · exact .inr ⟨hx, .inr herr⟩
  · rw [hwait] at hs; cases hs; exact .inl ⟨h4, rfl⟩
  · rw [hend] at hs; cases hs; exact .inr ⟨rfl, .inl h4⟩
  · rw [hstop] at hs; cases hs

/-- Settles O29: the codes are the positions in the order of the text, and a step follows the next-phase
function or ends the call. -/
theorem phaseCodesFollowText : Obligations.PhaseCodesFollowText := by
  refine ⟨fun k p hp => ⟨Phase.inOrder_eq_some_iff.mp hp, Phase.ofCode_code p⟩, fun w hw => ?_, ?_⟩
  · rw [decode, Phase.ofCode_reserved hw]; rfl
  · intro s t h hs c c'
    rcases step_busy_xp h hs with ⟨h4, hx⟩ | ⟨hx, hend⟩
    · have hcode := nextPoint_code_cases s.data h h4
      rw [← hx] at hcode
      rcases hcode with hnext | hloop | hskip
      · exact .inl hnext
      · exact .inr (.inl hloop)
      · exact .inr (.inr (.inl hskip))
    · have hc' : c' = 0 := by simp only [c', hx]; rfl
      have hc : s.xp.phase = .s4c → c = 17 := fun h4 => by simp only [c, h4]; rfl
      exact .inr (.inr (.inr ⟨hc', hend.imp_left hc⟩))

/-! Phases and their words -/

/-- The micro-operation of line `l` and level `v` (R133 to R141). -/
theorem exec_ofPin (l : Line) (v : Level) (s : State) :
    exec (Instr.ofPin l v) s = .next (s.pin l v State.advance) := by
  cases l <;> cases v <;> rfl

/-- Before `S4C` a pin operation advances by the next-phase function (R174). -/
theorem State.pin_advance {s : State} (h4 : s.xp.phase ≠ .s4c) (l : Line) (v : Level) :
    s.pin l v State.advance = s.pin l v (·.goto (nextPoint s.data.length s.xp)) := by
  cases ha : s.answer with
  | ok =>
    rw [State.pin_ok ha, State.pin_ok ha, State.advance_of_ne (by rwa [State.pinDone_xp]),
      State.pinDone_data, State.pinDone_xp]
  | err e => rw [State.pin_err ha, State.pin_err ha]

/-- A phase that issues a pin operation runs it (R93). -/
theorem exec_phase_of_phasePin {s : State} {l : Line} {v : Level}
    (hp : phasePin s.data s.xp = some (l, v)) :
    exec s.xp.phase.toInstr s = exec (Instr.ofPin l v) s := by
  have h4 : s.xp.phase ≠ .s4c := fun h4 => by simp [phasePin, h4] at hp
  rw [← step_of_busy (phase_ne_idle_of_phasePin hp), step_of_phasePin hp, exec_ofPin,
    State.pin_advance h4]

/-- A phase that issues none, and is not a frame read outside the frame, runs a wait (R93, R139). -/
theorem exec_phase_of_no_phasePin {s : State} (h : s.xp.phase ≠ .idle) (h3 : s.xp.phase ≠ .s3a)
    (hp : phasePin s.data s.xp = none) :
    exec s.xp.phase.toInstr s = exec (.wait delayUnit) s := by
  rw [← step_of_busy h]
  by_cases h4 : s.xp.phase = .s4c
  · rw [step_of_s4c h4]
    exact congrArg _ (State.advance_of_eq (s := s.record (.wait delayUnit)) h4).symm
  · rw [step_of_wait_phase h hp h4 h3]
    exact congrArg _ (State.advance_of_ne (s := s.record (.wait delayUnit)) h4).symm

section Words
variable {s : State} {p : Phase} {w : MicroWord}

theorem issuesWord_of_phasePin {l : Line} {v : Level} (h : s.xp.phase = p)
    (hp : phasePin s.data ⟨p, s.xp.byteIdx, s.xp.bitIdx⟩ = some (l, v))
    (hw : encode (Instr.ofPin l v) = .micro w) : IssuesWord p.toInstr w s := by
  subst h
  exact ⟨_, (decodeIffEncode _ _).mpr hw, exec_phase_of_phasePin hp⟩

theorem issuesWord_of_no_phasePin (h : s.xp.phase = p)
    (hp : phasePin s.data ⟨p, s.xp.byteIdx, s.xp.bitIdx⟩ = none) (hne : p ≠ .idle ∧ p ≠ .s3a) :
    IssuesWord p.toInstr 0x401#12 s := by
  subst h
  obtain ⟨hi, h3⟩ := hne
  exact ⟨_, (decodeIffEncode _ (.wait delayUnit)).mpr rfl, exec_phase_of_no_phasePin hi h3 hp⟩

/-- The bit that `S3A` reads selects the word (R91, R93). -/
theorem issuesWord_s3a {b : Byte} (h : s.xp.phase = .s3a) (hb : s.data[s.xp.byteIdx]? = some b) :
    IssuesWord .s3a (if b.getLsbD s.xp.bitIdx.toNat then 0x301#12 else 0x300#12) s := by
  refine issuesWord_of_phasePin (p := .s3a) (l := .data)
    (v := levelOfBit (b.getLsbD s.xp.bitIdx.toNat)) h (by simp [phasePin, hb, bitOf]) ?_
  cases b.getLsbD s.xp.bitIdx.toNat <;> rfl

end Words

/-- Settles O18, row by row of R93's table. -/
theorem phasesIssueTheirWords : Obligations.PhasesIssueTheirWords := fun _ =>
  ⟨(issuesWord_of_phasePin · rfl rfl),
    (issuesWord_of_phasePin · rfl rfl),
    (issuesWord_of_phasePin · rfl rfl),
    (issuesWord_of_phasePin · rfl rfl),
    (issuesWord_of_no_phasePin · rfl (by decide)),
    (issuesWord_of_phasePin · rfl rfl),
    (issuesWord_of_phasePin · rfl rfl),
    (issuesWord_of_no_phasePin · rfl (by decide)),
    fun h _ hb => issuesWord_s3a h hb,
    (issuesWord_of_no_phasePin · rfl (by decide)),
    (issuesWord_of_phasePin · rfl rfl),
    (issuesWord_of_no_phasePin · rfl (by decide)),
    (issuesWord_of_phasePin · rfl rfl),
    (issuesWord_of_phasePin · rfl rfl),
    (issuesWord_of_no_phasePin · rfl (by decide)),
    (issuesWord_of_phasePin · rfl rfl),
    (issuesWord_of_no_phasePin · rfl (by decide)),
    rfl⟩

end Sys2Proof.Machine
end

section
/-!
PROOFS. The command port: when a command is admitted (R111, R112, R116), where a call is answered (R114), and
what a block at `IDLE` leaves alone (R117, R122).
-/

namespace Sys2Proof.Machine

/-! How a call goes on and how it ends -/

/-- Within a call the next-phase function never leads to `IDLE`, whose code is 0 (R92, R174). -/
theorem nextPoint_phase_ne_idle (data : List Byte) {x : ExecPoint} (hi : x.phase ≠ .idle)
    (h4 : x.phase ≠ .s4c) : (nextPoint data.length x).phase ≠ .idle := by
  intro hnext
  have hcode := nextPoint_code_cases data hi h4
  simp [hnext, Phase.code] at hcode

theorem callGoesOn_pinDone_goto (s : State) (l : Line) (v : Level) (x : ExecPoint) :
    CallGoesOn s ((s.pinDone l v).goto x) := by
  simp [CallGoesOn]

theorem callAnswered_respond (s : State) (r : Response) : CallAnswered r s (s.respond r) :=
  ⟨rfl, congrArg some (s.portResponse_eq r)⟩

/-- The failed pin operation has changed neither the point nor `variant` when it responds (R130, R200). -/
theorem callAnswered_pinFailed (s : State) (l : Line) (v : Level) (e : ErrCode) :
    CallAnswered (.err e) s (s.pinFailed l v e) :=
  ⟨rfl, congrArg some (s.portResponse_eq (.err e))⟩

/-- Settles O40, by what a step of a call can be and, for a pin operation, by its answer. -/
theorem responseAtTwoPlaces : Obligations.ResponseAtTwoPlaces := by
  intro s t h hs
  rcases step_busy_cases h with
    ⟨l, v, -, h4, hpin⟩ | ⟨-, h4, -, hwait⟩ | ⟨h4, hend⟩ | ⟨-, -, hstop⟩
  · rw [hpin] at hs
    cases hs
    cases ha : s.answer with
    | ok =>
      left
      rw [State.pin_ok ha]
      exact ⟨nextPoint_phase_ne_idle s.data h h4, callGoesOn_pinDone_goto s l v _⟩
    | err e =>
      right; right
      rw [State.pin_err ha]
      exact ⟨l, v, e, rfl, callAnswered_pinFailed s l v e, rfl⟩
  · rw [hwait] at hs
    cases hs
    exact .inl ⟨nextPoint_phase_ne_idle s.data h h4, rfl, rfl, rfl⟩
  · rw [hend] at hs
    cases hs
    exact .inr (.inl ⟨h4, callAnswered_respond (s.record (.wait delayUnit)) .ok, rfl⟩)
  · rw [hstop] at hs
    cases hs

/-! The block at `IDLE` -/

/-- Of the moves that are no command only `reset` empties the trace, and only `drive` and `reset` touch the
wires (R245 rows 5, 6, 9, 13). -/
theorem State.onHostMove_moved_silent {s t : State} {m : HostMove} (hm : s.onHostMove m = .moved t) :
    (t.trace = s.trace ∨ t.trace = []) ∧ t.asked = s.asked ∧ t.answers = s.answers
      ∧ (t.wires = s.wires ∨ m = .drive t.wires ∨ m = .reset) := by
  cases m with
  | command w frame => cases hm
  | receive | useDelay => cases hm; exact ⟨.inl rfl, rfl, rfl, .inl rfl⟩
  | drive w => cases hm; exact ⟨.inl rfl, rfl, rfl, .inr (.inl rfl)⟩
  | reset => cases hm; exact ⟨.inr rfl, rfl, rfl, .inr (.inr rfl)⟩

/-- Settles O44: without a move nothing changes, a command empties the trace and touches no wire, and the
other moves are silent. -/
theorem idleBlockIsSilent : Obligations.IdleBlockIsSilent := by
  intro s t h hs
  rcases step_idle_next_cases h hs with ⟨-, rfl⟩ | ⟨_, _, _, _, -, -, rfl⟩ | ⟨m, rest, hh, hm⟩
  · exact ⟨.inl rfl, rfl, rfl, .inl rfl⟩
  · exact ⟨.inr rfl, rfl, rfl, .inl rfl⟩
  · obtain ⟨htrace, hasked, hanswers, hwires⟩ := State.onHostMove_moved_silent hm
    simp only [hh, List.head?_cons, Option.some.injEq]
    exact ⟨htrace, hasked, hanswers, hwires⟩

/-! The two commands (R111, R112, R116) -/

section Commands
variable {s : State} (data : List Byte)

theorem exec_shiftOut_of_idle (h : s.xp.phase = .idle) :
    exec (.shiftOut data) s = .next (s.startCall .shiftOut data) := by
  simp [exec, execShiftOut, h]

theorem exec_shiftOut_of_busy (h : s.xp.phase ≠ .idle) :
    exec (.shiftOut data) s = .refused .busy := by
  simp [exec, execShiftOut, h]

theorem exec_infallible_of_idle (h : s.xp.phase = .idle) :
    exec (.shiftOutInfallible data) s =
      if s.cfg.errs.isEmpty then .next (s.startCall .infallible data)
      else .refused .infallibleNotOffered := by
  simp [exec, execShiftOutInfallible, h]

theorem exec_infallible_of_busy (h : s.xp.phase ≠ .idle) :
    exec (.shiftOutInfallible data) s = .refused .busy := by
  simp [exec, execShiftOutInfallible, h]

end Commands

/-- Settles O3: `SHIFT_OUT` in `IDLE` is `startCall`, which writes the operands, the trace, the point and the
response alone. -/
theorem shiftOutStartsCall : Obligations.ShiftOutStartsCall := by
  intro s data h
  exact ⟨_, exec_shiftOut_of_idle data h, by simp⟩

/-- Settles O4: where `E` is empty the infallible command is `startCall` too, with the other `variant`. -/
theorem infallibleStartsCall : Obligations.InfallibleStartsCall := by
  intro s data h he
  have hexec : exec (.shiftOutInfallible data) s = .next (s.startCall .infallible data) := by
    rw [exec_infallible_of_idle data h, if_pos he]
  exact ⟨_, hexec, by simp⟩

/-- Settles O5: where `E` has a member the same test refuses the command. -/
theorem infallibleRefusedWithErrors : Obligations.InfallibleRefusedWithErrors := by
  intro s data h he
  rw [exec_infallible_of_idle data h, he]
  rfl

/-- `Pin(l, v)` leaves the host's moves, whatever the answer, if what an `ok` leads on to does. -/
theorem State.pin_host (s : State) (l : Line) (v : Level) {andThen : State → State}
    (hk : ∀ u, (andThen u).host = u.host) : (s.pin l v andThen).host = s.host := by
  cases ha : s.answer with
  | ok => rw [State.pin_ok ha, hk, State.pinDone_host]
  | err e => rw [State.pin_err ha, State.pinFailed_eq]

/-- A step of a call takes no move of the host (R116). -/
theorem step_busy_host {s t : State} (h : s.xp.phase ≠ .idle) (hs : step s = .next t) :
    t.host = s.host := by
  rcases step_busy_cases h with ⟨l, v, -, -, hpin⟩ | ⟨-, -, -, hwait⟩ | ⟨-, hend⟩ | ⟨-, -, hstop⟩
  · rw [hpin] at hs; cases hs; exact s.pin_host l v fun _ => rfl
  · rw [hwait] at hs; cases hs; rfl
  · rw [hend] at hs; cases hs; rfl
  · rw [hstop] at hs; cases hs

/-- Settles O6: the two refusals, the step of a call, and the host's moves that it keeps. -/
theorem noCommandWhileBusy : Obligations.NoCommandWhileBusy := fun _ h =>
  ⟨(exec_shiftOut_of_busy · h), (exec_infallible_of_busy · h), step_of_busy h, fun _ => step_busy_host h⟩

end Sys2Proof.Machine
end

section
/-!
PROOFS. The micro-operations (41_micro_ops.md): the answers the lines can give (R131), and what the eight pin
operations (R130, R132) and the wait (R139) do and leave alone.
-/

namespace Sys2Proof.Machine

/-! The answers of the lines (R131) -/

theorem State.answer_cases (s : State) :
    s.answer = .ok ∨ ∃ e, s.cfg.errs.contains e = true ∧ s.answer = .err e :=
  Answer.admitted_cases _ _

/-- An answer that the lines can give and a harness has fixed is the one given (R131; log 3). -/
theorem State.answer_of_fixed {s : State} {a : Answer} {more : List Answer}
    (hfix : s.answers = a :: more) (ha : a.wellFormed s.cfg.errs = true) : s.answer = a := by
  simp [State.answer, State.answerAt, hfix, Answer.admitted, ha]

/-- Settles O41: what an answer can be and depends on is said by its definition, and a list that begins with
the wanted answer gives it. -/
theorem answersAreDraws : Obligations.AnswersAreDraws := fun s =>
  ⟨s.answer_cases,
    fun hempty => State.answerAt_of_isEmpty hempty 0,
    ⟨[.ok], State.answer_of_fixed rfl rfl⟩,
    fun e he => ⟨[.err e], State.answer_of_fixed rfl he⟩,
    fun _ herrs hans hasked => State.answerAt_congr herrs hans hasked 0⟩

/-! The advance: the call goes on, or is answered at `S4C` (R168, R174) -/

/-- What holds at either place where an advance can lead holds after it. -/
theorem State.advance_induction {P : State → Prop} {s : State}
    (hgoto : P (s.goto (nextPoint s.data.length s.xp))) (hrespond : P (s.respond .ok)) :
    P s.advance := by
  by_cases h4 : s.xp.phase = .s4c
  · rwa [State.advance_of_eq h4]
  · rwa [State.advance_of_ne h4]

section Advance
variable {s u : State}

/-- Off `S4C`, after an operation that has moved neither the point nor the operands. -/
theorem callGoesOn_advance (hxp : u.xp = s.xp) (hgo : CallGoesOn s u) (h4 : s.xp.phase ≠ .s4c) :
    u.advance.xp = nextPoint s.data.length s.xp ∧ CallGoesOn s u.advance := by
  obtain ⟨hvariant, hdata, hresponse⟩ := hgo
  rw [State.advance_of_ne (by rwa [hxp])]
  exact ⟨by rw [State.goto_xp, hdata, hxp], hvariant, hdata, hresponse⟩

/-- At `S4C`, after such an operation. -/
theorem callAnswered_advance (hxp : u.xp = s.xp) (hgo : CallGoesOn s u) (h4 : s.xp.phase = .s4c) :
    CallAnswered .ok s u.advance := by
  obtain ⟨hvariant, -, -⟩ := hgo
  rw [State.advance_of_eq (by rwa [hxp])]
  simpa only [CallAnswered, hxp, hvariant] using callAnswered_respond u .ok

/-- The advance leaves wires, trace and the model's own fields. -/
theorem PinEffect.advance {l : Line} {v : Level} (h : PinEffect l v s u) : PinEffect l v s u.advance :=
  State.advance_induction (P := PinEffect l v s) h h

/-- The advance leaves the chip too. -/
theorem WaitEffect.advance {n : Byte} (h : WaitEffect n s u) : WaitEffect n s u.advance :=
  State.advance_induction (P := WaitEffect n s) h h

end Advance

/-! A pin operation of line `l` and level `v`, by its answer -/

section Pin
variable (s : State) (l : Line) (v : Level)

theorem pinEffect_pinDone : PinEffect l v s (s.pinDone l v) := by
  have hother : ∀ k, k ≠ l → (s.pinDone l v).wires.get k = s.wires.get k := fun k hkl => by
    rw [State.pinDone_wires, Wires.get_set_other _ _ hkl]
  exact ⟨by simp, hother, by simp⟩

theorem callGoesOn_pinDone : CallGoesOn s (s.pinDone l v) := by
  simp [CallGoesOn]

theorem faultEffect_pinFailed (e : ErrCode) : FaultEffect l v e s (s.pinFailed l v e) :=
  ⟨Wires.get_set_same _ _ _, fun _ hkl => Wires.get_set_other _ _ hkl, rfl, freeStages_length _ _,
    freeStages_length _ _, callAnswered_pinFailed s l v e, rfl⟩

end Pin

theorem pinMicroOp_ofPin (l : Line) (v : Level) : PinMicroOp (Instr.ofPin l v) l v := by
  intro s ha
  have hexec : exec (Instr.ofPin l v) s = .next (s.pinDone l v).advance := by
    rw [exec_ofPin, State.pin_ok ha]
  have hxp := s.pinDone_xp l v
  have hgo := callGoesOn_pinDone s l v
  exact ⟨_, hexec, (pinEffect_pinDone s l v).advance, callGoesOn_advance hxp hgo,
    callAnswered_advance hxp hgo⟩

theorem pinMicroOpFails_ofPin (l : Line) (v : Level) : PinMicroOpFails (Instr.ofPin l v) l v := by
  intro s e ha
  have hexec : exec (Instr.ofPin l v) s = .next (s.pinFailed l v e) := by
    rw [exec_ofPin, State.pin_err ha]
  exact ⟨_, hexec, faultEffect_pinFailed s l v e, rfl, rfl, rfl⟩

/-- Settles O7: each of the eight is `Pin(l, v)` for its line and level (R133 to R138, R140, R141). -/
theorem pinOperationsAnsweredOk : Obligations.PinOperationsAnsweredOk :=
  ⟨pinMicroOp_ofPin .clr .lo, pinMicroOp_ofPin .clr .hi, pinMicroOp_ofPin .shift .lo,
    pinMicroOp_ofPin .shift .hi, pinMicroOp_ofPin .latch .lo, pinMicroOp_ofPin .latch .hi,
    pinMicroOp_ofPin .data .lo, pinMicroOp_ofPin .data .hi⟩

/-- Settles O8, in the same way. -/
theorem pinOperationsAnsweredErr : Obligations.PinOperationsAnsweredErr :=
  ⟨pinMicroOpFails_ofPin .clr .lo, pinMicroOpFails_ofPin .clr .hi, pinMicroOpFails_ofPin .shift .lo,
    pinMicroOpFails_ofPin .shift .hi, pinMicroOpFails_ofPin .latch .lo, pinMicroOpFails_ofPin .latch .hi,
    pinMicroOpFails_ofPin .data .lo, pinMicroOpFails_ofPin .data .hi⟩

/-! The wait (R139) -/

theorem waitEffect_record (s : State) (n : Byte) : WaitEffect n s (s.record (.wait n)) := by
  simp [WaitEffect]

/-- Settles O9: a wait records its event, and then advances as a pin operation does. -/
theorem waitIsOneEvent : Obligations.WaitIsOneEvent := by
  intro s n
  have hgo : CallGoesOn s (s.record (.wait n)) := ⟨rfl, rfl, rfl⟩
  exact ⟨_, rfl, (waitEffect_record s n).advance, callGoesOn_advance rfl hgo, callAnswered_advance rfl hgo⟩

end Sys2Proof.Machine
end

section
/-!
PROOFS. The sequence phase by phase (R151 to R168): what each phase does when it is answered `ok` or `done`, and
how a failed pin operation ends the call (R177).
-/

namespace Sys2Proof.Machine

/-! A step is the decoded instruction (R93, R111, R151) -/

/-- Settles O10: `IDLE` is the identity, and the step of an idle block without a move. -/
theorem idleIssuesNothing : Obligations.IdleIssuesNothing := fun _ => ⟨rfl, step_of_idle⟩

/-- Settles O24, by the three cases of the fetch. -/
theorem stepRunsDecodedInstruction : Obligations.StepRunsDecodedInstruction := by
  intro s
  refine ⟨fun h i hi => ?_, fun h w data rest i hh hi => ?_, step_of_idle⟩
  · rw [decode_phase] at hi
    cases hi
    exact step_of_busy h
  · rw [step_of_move h hh]
    simp only [State.onHostMove, hi]

/-! A phase at its own point, by what it issues -/

section PhaseLaws
variable {p : Phase} {l : Line}

/-- A phase that issues a pin operation and goes on to the point that its rule names (R130, R174). -/
theorem exec_phase_eq_pin {s : State} {v : Level} (h : s.xp.phase = p)
    (hpin : phasePin s.data ⟨p, s.xp.byteIdx, s.xp.bitIdx⟩ = some (l, v)) :
    exec p.toInstr s =
      .next (s.pin l v (·.goto (nextPoint s.data.length ⟨p, s.xp.byteIdx, s.xp.bitIdx⟩))) := by
  subst h
  rw [← step_of_busy (phase_ne_idle_of_phasePin hpin), step_of_phasePin hpin]

/-- A phase that issues a pin operation, answered `ok`; the chip is said by line and level. -/
theorem pinPhase_of_phasePin {v : Level} {next : State → ExecPoint} {keepsSr keepsOut : Bool}
    (hpin : ∀ data i j, phasePin data ⟨p, i, j⟩ = some (l, v))
    (hnext : ∀ s : State, nextPoint s.data.length ⟨p, s.xp.byteIdx, s.xp.bitIdx⟩ = next s)
    (hsr : keepsSr = true → ∀ s : State, (s.pinDone l v).sr = s.sr)
    (hout : keepsOut = true → ∀ s : State, (s.pinDone l v).out = s.out) :
    PinPhase p.toInstr p l v next keepsSr keepsOut := by
  intro s hp ha
  have hexec : exec p.toInstr s = .next ((s.pinDone l v).goto (next s)) := by
    rw [exec_phase_eq_pin hp (hpin _ _ _), State.pin_ok ha, hnext]
  exact ⟨_, hexec, pinEffect_pinDone s l v, callGoesOn_pinDone s l v, rfl,
    fun hk => hsr hk s, fun hk => hout hk s⟩

/-- A phase that waits and goes on (R139, R174). -/
theorem waitPhase_of_no_phasePin {next : State → ExecPoint} (hne : p ≠ .idle ∧ p ≠ .s4c ∧ p ≠ .s3a)
    (hpin : ∀ data i j, phasePin data ⟨p, i, j⟩ = none)
    (hnext : ∀ s : State, nextPoint s.data.length ⟨p, s.xp.byteIdx, s.xp.bitIdx⟩ = next s) :
    WaitPhase p.toInstr p next := by
  rintro s rfl
  obtain ⟨hi, h4, h3⟩ := hne
  have hexec : exec s.xp.phase.toInstr s = .next ((s.record (.wait delayUnit)).goto (next s)) := by
    rw [← step_of_busy hi, step_of_wait_phase hi (hpin _ _ _) h4 h3, ← hnext]
  exact ⟨_, hexec, waitEffect_record s delayUnit, ⟨rfl, rfl, rfl⟩, rfl⟩

end PhaseLaws

/-! The phases answered `ok` or `done` -/

/-- Settles O11, phase by phase; only `CLR_LO` and `SHIFT_HI` touch the shift register. -/
theorem openingPinPhases : Obligations.OpeningPinPhases :=
  ⟨pinPhase_of_phasePin (p := .s1a) (fun _ _ _ => rfl) (fun _ => rfl)
      (fun _ => State.pinDone_shiftLo_sr) (fun _ => State.pinDone_shiftLo_out),
    pinPhase_of_phasePin (p := .s1b) (fun _ _ _ => rfl) (fun _ => rfl)
      (fun _ => State.pinDone_latchLo_sr) (fun _ => State.pinDone_latchLo_out),
    pinPhase_of_phasePin (p := .s2a) (fun _ _ _ => rfl) (fun _ => rfl)
      nofun (fun _ => State.pinDone_clrLo_out),
    pinPhase_of_phasePin (p := .s2b) (fun _ _ _ => rfl) (fun _ => rfl)
      nofun (fun _ => (State.pinDone_shift_out · .hi)),
    pinPhase_of_phasePin (p := .s2d) (fun _ _ _ => rfl) (fun _ => rfl)
      (fun _ => State.pinDone_shiftLo_sr) (fun _ => State.pinDone_shiftLo_out),
    pinPhase_of_phasePin (p := .s2e) (fun _ _ _ => rfl) (fun _ => rfl)
      (fun _ => State.pinDone_clrHi_sr) (fun _ => State.pinDone_clrHi_out)⟩

/-- Settles O12; an empty frame is one of length 0 (R159). -/
theorem clearPulseWaits : Obligations.ClearPulseWaits := by
  have hempty : ∀ s : State, afterClear s.data.length =
      if s.data = [] then ⟨.s4a, 0, 0#3⟩ else ⟨.s3a, 0, 0#3⟩ := fun s => by
    simp [afterClear]
  exact ⟨waitPhase_of_no_phasePin (p := .s2c) (by decide) (fun _ _ _ => rfl) (fun _ => rfl),
    waitPhase_of_no_phasePin (p := .s2f) (by decide) (fun _ _ _ => rfl) hempty⟩

/-- What `S3A` issues inside the frame (R91, R160). -/
theorem phasePin_s3a {data : List Byte} {i : Nat} (j : BitVec 3) {b : Byte} (hb : data[i]? = some b) :
    phasePin data ⟨.s3a, i, j⟩ = some (.data, levelOfBit (b.getLsbD j.toNat)) := by
  simp [phasePin, hb, bitOf]

/-- Settles O13: the pin operation is that of the frame's bit, and an edge of `DATA` leaves the chip's registers
(R232). -/
theorem dataPhasePresentsBit : Obligations.DataPhasePresentsBit := by
  intro s b hp hb ha
  let v := levelOfBit (b.getLsbD s.xp.bitIdx.toNat)
  have hexec := exec_phase_eq_pin hp (phasePin_s3a s.xp.bitIdx hb)
  rw [State.pin_ok ha] at hexec
  exact ⟨_, hexec, pinEffect_pinDone s .data v, callGoesOn_pinDone s .data v, rfl,
    s.pinDone_data_sr v, s.pinDone_data_out v⟩

/-- Where `S3E` leads, by the index as a number: below 7 the increment does not wrap (R165, R170). -/
theorem afterBit_eq (len i : Nat) (j : BitVec 3) :
    afterBit len i j =
      if j.toNat < 7 then ⟨.s3a, i, BitVec.ofNat 3 (j.toNat + 1)⟩
      else if i + 1 < len then ⟨.s3a, i + 1, 0#3⟩ else ⟨.s4a, 0, 0#3⟩ := by
  have hsucc : j + 1#3 = BitVec.ofNat 3 (j.toNat + 1) := by bv_omega
  rw [afterBit, hsucc]
  rfl

/-- Settles O14, phase by phase. -/
theorem bitLoadingPhases : Obligations.BitLoadingPhases :=
  ⟨waitPhase_of_no_phasePin (p := .s3b) (by decide) (fun _ _ _ => rfl) (fun _ => rfl),
    pinPhase_of_phasePin (p := .s3c1) (fun _ _ _ => rfl) (fun _ => rfl)
      nofun (fun _ => (State.pinDone_shift_out · .hi)),
    waitPhase_of_no_phasePin (p := .s3c2) (by decide) (fun _ _ _ => rfl) (fun _ => rfl),
    pinPhase_of_phasePin (p := .s3d) (fun _ _ _ => rfl) (fun _ => rfl)
      (fun _ => State.pinDone_shiftLo_sr) (fun _ => State.pinDone_shiftLo_out),
    pinPhase_of_phasePin (p := .s3e) (fun _ _ _ => rfl) (fun _ => afterBit_eq _ _ _)
      (fun _ => (State.pinDone_data_sr · .lo)) (fun _ => (State.pinDone_data_out · .lo))⟩

/-- Settles O15; after the last wait the call responds `Ok` (R168). -/
theorem latchPhases : Obligations.LatchPhases :=
  ⟨waitPhase_of_no_phasePin (p := .s4a) (by decide) (fun _ _ _ => rfl) (fun _ => rfl),
    pinPhase_of_phasePin (p := .s4b) (fun _ _ _ => rfl) (fun _ => rfl)
      (fun _ => (State.pinDone_latch_sr · .hi)) nofun,
    fun s _ => ⟨_, rfl, waitEffect_record s delayUnit,
      callAnswered_respond (s.record (.wait delayUnit)) .ok⟩⟩

/-! A pin operation answered `err(e)` (R177) -/

theorem State.Legal.pointLegal {s : State} (h : s.Legal) : s.PointLegal := h.1

theorem State.Legal.chipSized {s : State} (h : s.Legal) : s.ChipSized := h.2.1

/-- Where the lines can fail, a legal call is one of `SHIFT_OUT` (R112, R211). -/
theorem State.Legal.variant_of_err {s : State} {k : Nat} {e : ErrCode} (h : s.Legal)
    (hb : s.xp.phase ≠ .idle) (he : s.answerAt k = .err e) : s.variant = .shiftOut := by
  obtain ⟨-, -, hoffered⟩ := h
  cases hv : s.variant with
  | shiftOut => rfl
  | infallible =>
    have hempty := hoffered ((s.busy_iff).mpr hb) hv
    rw [State.answerAt_of_isEmpty hempty] at he
    cases he

/-- So the error is passed on as it is (R114, R201). -/
theorem State.Legal.pinFailed_response {s : State} {e : ErrCode} (h : s.Legal) (hb : s.xp.phase ≠ .idle)
    (he : s.answer = .err e) (l : Line) (v : Level) :
    (s.pinFailed l v e).response = some (.err e) := by
  rw [State.pinFailed_eq, State.portResponse_shiftOut (h.variant_of_err hb he)]

/-- Inside the frame there is a byte to read (R52, R169). -/
theorem State.PointLegal.exists_byte {s : State} (h : s.PointLegal) (hp : s.xp.phase = .s3a) :
    ∃ b, s.data[s.xp.byteIdx]? = some b := by
  have hin : s.xp.byteIdx < s.data.length := by simpa [State.PointLegal, hp, loopPhase] using h
  exact ⟨_, List.getElem?_eq_getElem hin⟩

/-- A phase that issues a pin operation, answered `err(e)`. -/
theorem abortsAt_of_phasePin {p : Phase} {l : Line} {v : State → Level}
    (hpin : ∀ s : State, s.xp.phase = p → s.PointLegal →
      phasePin s.data ⟨p, s.xp.byteIdx, s.xp.bitIdx⟩ = some (l, v s)) :
    AbortsAt p.toInstr p l v := by
  intro s e hp hl ha
  have hpin' := hpin s hp hl.pointLegal
  have hb : s.xp.phase ≠ .idle := by rw [hp]; exact phase_ne_idle_of_phasePin hpin'
  have hexec : exec p.toInstr s = .next (s.pinFailed l (v s) e) := by
    rw [exec_phase_eq_pin hp hpin', State.pin_err ha]
  exact ⟨_, hexec, faultEffect_pinFailed s l (v s) e, hl.pinFailed_response hb ha l (v s)⟩

/-- Settles O16, phase by phase; `S3A` reads the frame, and is inside it. -/
theorem pinErrorAbortsCall : Obligations.PinErrorAbortsCall := by
  have hs3a : ∀ s : State, s.xp.phase = .s3a → s.PointLegal →
      phasePin s.data ⟨.s3a, s.xp.byteIdx, s.xp.bitIdx⟩ = some (.data,
        levelOfBit (((s.data[s.xp.byteIdx]?).getD 0#8).getLsbD s.xp.bitIdx.toNat)) := by
    intro s hp hl
    obtain ⟨b, hb⟩ := hl.exists_byte hp
    rw [phasePin_s3a _ hb, hb]
    rfl
  exact ⟨abortsAt_of_phasePin (p := .s1a) (fun _ _ _ => rfl),
    abortsAt_of_phasePin (p := .s1b) (fun _ _ _ => rfl),
    abortsAt_of_phasePin (p := .s2a) (fun _ _ _ => rfl),
    abortsAt_of_phasePin (p := .s2b) (fun _ _ _ => rfl),
    abortsAt_of_phasePin (p := .s2d) (fun _ _ _ => rfl),
    abortsAt_of_phasePin (p := .s2e) (fun _ _ _ => rfl),
    abortsAt_of_phasePin (p := .s3a) hs3a,
    abortsAt_of_phasePin (p := .s3c1) (fun _ _ _ => rfl),
    abortsAt_of_phasePin (p := .s3d) (fun _ _ _ => rfl),
    abortsAt_of_phasePin (p := .s3e) (fun _ _ _ => rfl),
    abortsAt_of_phasePin (p := .s4b) (fun _ _ _ => rfl),
    fun _ => step_of_idle⟩

end Sys2Proof.Machine
end

section
/-!
PROOFS. The legal execution points (R169), and that every step keeps a state legal (R112, R169, R230).
-/

namespace Sys2Proof.Machine

/-! The legal points of a call of the frame `data` -/

/-- `State.PointLegal` as a predicate of the frame and the point alone (R169). -/
def LegalPoint (data : List Byte) (x : ExecPoint) : Prop :=
  if loopPhase x.phase then x.byteIdx < data.length else x.byteIdx = 0 ∧ x.bitIdx = 0#3

theorem State.pointLegal_iff (s : State) : s.PointLegal ↔ LegalPoint s.data s.xp := Iff.rfl

theorem LegalPoint.inside {data : List Byte} {x : ExecPoint} {p : Phase} (h : LegalPoint data x)
    (hp : x.phase = p) (hloop : loopPhase p = true) : x.byteIdx < data.length := by
  subst hp
  rwa [LegalPoint, if_pos hloop] at h

/-- The next-phase function stays inside the frame (R165, R169, R174). -/
theorem LegalPoint.nextPoint {data : List Byte} {x : ExecPoint} (h : LegalPoint data x) :
    LegalPoint data (nextPoint data.length x) := by
  cases hp : x.phase
  case idle => rwa [Machine.nextPoint, hp]
  case s2f =>
    rcases afterClear_cases data with ⟨-, hx⟩ | ⟨hlen, hx⟩
    · simp [Machine.nextPoint, hp, hx, LegalPoint, loopPhase]
    · simpa [Machine.nextPoint, hp, hx, LegalPoint, loopPhase] using hlen
  case s3a | s3b | s3c1 | s3c2 | s3d =>
    simpa [Machine.nextPoint, hp, LegalPoint, loopPhase] using h
  case s3e =>
    rcases afterBit_cases data.length x.byteIdx x.bitIdx (h.inside hp rfl) with
      ⟨y, hy, hphase, hin, -⟩ | ⟨hx, -⟩
    · simpa [Machine.nextPoint, hp, hy, LegalPoint, hphase, loopPhase] using hin
    · simp [Machine.nextPoint, hp, hx, LegalPoint, loopPhase]
  all_goals simp [Machine.nextPoint, hp, LegalPoint, loopPhase, ExecPoint.rest]

/-! What a step of a call leads to, by the answer of its operation -/

/-- The state after the phase's pin operation, answered `ok` (R130, R174). -/
def State.afterPin (s : State) (l : Line) (v : Level) : State :=
  (s.pinDone l v).goto (nextPoint s.data.length s.xp)

/-- The state after the phase's wait (R139, R174). -/
def State.afterWait (s : State) : State :=
  (s.record (.wait delayUnit)).goto (nextPoint s.data.length s.xp)

/-- The phase waits and goes on. -/
def State.AtWait (s : State) : Prop :=
  s.xp.phase ≠ .idle ∧ phasePin s.data s.xp = none ∧ s.xp.phase ≠ .s4c ∧ s.xp.phase ≠ .s3a

section After
variable (s : State) (l : Line) (v : Level)

@[simp] theorem State.afterPin_xp : (s.afterPin l v).xp = nextPoint s.data.length s.xp := rfl
@[simp] theorem State.afterPin_cfg : (s.afterPin l v).cfg = s.cfg := s.pinDone_cfg l v
@[simp] theorem State.afterPin_variant : (s.afterPin l v).variant = s.variant := s.pinDone_variant l v
@[simp] theorem State.afterPin_data : (s.afterPin l v).data = s.data := s.pinDone_data l v
@[simp] theorem State.afterPin_wires :
    (s.afterPin l v).wires = s.wires.set l (Level.onWire v) := s.pinDone_wires l v
@[simp] theorem State.afterPin_trace : (s.afterPin l v).trace = s.trace ++ [okPin l v] :=
  s.pinDone_trace l v
@[simp] theorem State.afterPin_sr : (s.afterPin l v).sr = (s.pinDone l v).sr := rfl
@[simp] theorem State.afterPin_out : (s.afterPin l v).out = (s.pinDone l v).out := rfl

@[simp] theorem State.afterWait_xp : s.afterWait.xp = nextPoint s.data.length s.xp := rfl
@[simp] theorem State.afterWait_cfg : s.afterWait.cfg = s.cfg := rfl
@[simp] theorem State.afterWait_variant : s.afterWait.variant = s.variant := rfl
@[simp] theorem State.afterWait_data : s.afterWait.data = s.data := rfl
@[simp] theorem State.afterWait_wires : s.afterWait.wires = s.wires := rfl
@[simp] theorem State.afterWait_trace : s.afterWait.trace = s.trace ++ [unitWait] := rfl
@[simp] theorem State.afterWait_sr : s.afterWait.sr = s.sr := rfl
@[simp] theorem State.afterWait_out : s.afterWait.out = s.out := rfl

end After

theorem phase_ne_s4c_of_phasePin {data : List Byte} {x : ExecPoint} {p : Line × Level}
    (h : phasePin data x = some p) : x.phase ≠ .s4c := by
  intro h4
  simp [phasePin, h4] at h

theorem State.AtWait.busy {s : State} (h : s.AtWait) : s.xp.phase ≠ .idle := h.1

section StepOf
variable {s : State} {l : Line} {v : Level}

theorem step_of_pin_ok (hp : phasePin s.data s.xp = some (l, v)) (ha : s.answer = .ok) :
    step s = .next (s.afterPin l v) := by
  rw [step_of_phasePin hp, State.pin_ok ha]; rfl

theorem step_of_pin_err {e : ErrCode} (hp : phasePin s.data s.xp = some (l, v))
    (ha : s.answer = .err e) : step s = .next (s.pinFailed l v e) := by
  rw [step_of_phasePin hp, State.pin_err ha]

theorem step_of_atWait (h : s.AtWait) : step s = .next s.afterWait := by
  obtain ⟨hb, hp, h4, h3⟩ := h
  exact step_of_wait_phase hb hp h4 h3

end StepOf

/-- A legal state in a call is at a pin operation, answered `ok` or `err(e)`, at a wait, or at the last wait
(R174, R177). -/
theorem State.PointLegal.busy_cases {s : State} (h : s.PointLegal) (hb : s.xp.phase ≠ .idle) :
    (∃ l v, phasePin s.data s.xp = some (l, v)
        ∧ (s.answer = .ok ∨ ∃ e, s.answer = .err e))
      ∨ s.AtWait ∨ s.xp.phase = .s4c := by
  rcases step_busy_cases hb with ⟨l, v, hp, -⟩ | ⟨hp, h4, h3, -⟩ | ⟨h4, -⟩ | ⟨h3, hout, -⟩
  · exact .inl ⟨l, v, hp, s.answer_cases.imp_right fun ⟨e, _, ha⟩ => ⟨e, ha⟩⟩
  · exact .inr (.inl ⟨hb, hp, h4, h3⟩)
  · exact .inr (.inr h4)
  · obtain ⟨b, hbyte⟩ := h.exists_byte h3
    rw [hbyte] at hout
    cases hout

/-- What is true of every state that a step of a legal call can lead to is true of the state it leads to. -/
theorem step_busy_induction {s t : State} {P : State → Prop} (h : s.PointLegal)
    (hb : s.xp.phase ≠ .idle) (hs : step s = .next t)
    (pinOk : ∀ l v, phasePin s.data s.xp = some (l, v) → s.answer = .ok → P (s.afterPin l v))
    (pinErr : ∀ l v e, s.answer = .err e → P (s.pinFailed l v e))
    (wait : s.AtWait → P s.afterWait)
    (last : P ((s.record (.wait delayUnit)).respond .ok)) : P t := by
  rcases h.busy_cases hb with ⟨l, v, hp, ha | ⟨e, ha⟩⟩ | hw | h4
  · rw [step_of_pin_ok hp ha] at hs; cases hs; exact pinOk l v hp ha
  · rw [step_of_pin_err hp ha] at hs; cases hs; exact pinErr l v e ha
  · rw [step_of_atWait hw] at hs; cases hs; exact wait hw
  · rw [step_of_s4c h4] at hs; cases hs; exact last

/-! Every step keeps a state legal -/

section Legal
variable {s : State}

theorem State.ChipSized.afterPin (h : s.ChipSized) (l : Line) (v : Level) :
    (s.afterPin l v).ChipSized := by
  obtain ⟨hsr, hout⟩ := h
  simpa [State.ChipSized] using s.pinDone_sized l v hsr hout

theorem State.chipSized_pinFailed (s : State) (l : Line) (v : Level) (e : ErrCode) :
    (s.pinFailed l v e).ChipSized :=
  ⟨freeStages_length _ _, freeStages_length _ _⟩

/-- On to the next point of the call, with the operands and the parameters as they were. -/
theorem State.Legal.of_nextPoint {t : State} (h : s.Legal) (hb : s.xp.phase ≠ .idle)
    (hxp : t.xp = nextPoint s.data.length s.xp) (hdata : t.data = s.data) (hvariant : t.variant = s.variant)
    (hcfg : t.cfg = s.cfg) (hchip : t.ChipSized) : t.Legal := by
  obtain ⟨hpoint, -, hoffered⟩ := h
  refine ⟨?_, hchip, fun _ hv => ?_⟩
  · rw [State.pointLegal_iff, hxp, hdata]
    exact LegalPoint.nextPoint hpoint
  · rw [hcfg]
    exact hoffered ((s.busy_iff).mpr hb) (hvariant ▸ hv)

theorem State.Legal.afterPin (h : s.Legal) {l : Line} {v : Level}
    (hp : phasePin s.data s.xp = some (l, v)) : (s.afterPin l v).Legal :=
  h.of_nextPoint (phase_ne_idle_of_phasePin hp) rfl (s.afterPin_data l v) (s.afterPin_variant l v)
    (s.afterPin_cfg l v) (h.chipSized.afterPin l v)

theorem State.Legal.afterWait (h : s.Legal) (hw : s.AtWait) : s.afterWait.Legal :=
  h.of_nextPoint hw.busy rfl rfl rfl rfl h.chipSized

/-- The start of a call on a platform that offers it (R111, R112, R169). -/
theorem State.Legal.startCall (h : s.Legal) {v : Variant} (frame : List Byte)
    (hv : v = .infallible → s.cfg.errs.isEmpty = true) : (s.startCall v frame).Legal :=
  ⟨⟨rfl, rfl⟩, h.chipSized, fun _ => hv⟩

/-- A move of the host that is no instruction, at rest. -/
theorem State.ChipSized.onHostMove {t : State} {m : HostMove} (h : s.ChipSized)
    (hm : s.onHostMove m = .moved t) : t.ChipSized := by
  cases m with
  | command w frame => cases hm
  | receive | useDelay => cases hm; exact h
  | drive | reset => cases hm; exact ⟨freeStages_length _ _, freeStages_length _ _⟩

/-- No move that is no instruction leaves rest (R117). -/
theorem State.onHostMove_moved_xp {t : State} {m : HostMove} (hx : s.xp = .rest)
    (hm : s.onHostMove m = .moved t) : t.xp = .rest := by
  cases m with
  | command w frame => cases hm
  | receive | useDelay | drive => cases hm; exact hx
  | reset => cases hm; rfl

/-- At `IDLE` a legal point is at rest (R36, R169). -/
theorem State.PointLegal.rest_of_idle (h : s.PointLegal) (hi : s.xp.phase = .idle) : s.xp = .rest := by
  obtain ⟨hbyte, hbit⟩ : s.xp.byteIdx = 0 ∧ s.xp.bitIdx = 0#3 := by
    simpa [State.PointLegal, hi, loopPhase] using h
  have hx : s.xp = ⟨s.xp.phase, s.xp.byteIdx, s.xp.bitIdx⟩ := rfl
  rw [hx, hi, hbyte, hbit]
  rfl

end Legal

theorem State.Legal.step_busy {s t : State} (h : s.Legal) (hb : s.xp.phase ≠ .idle)
    (hs : step s = .next t) : t.Legal :=
  step_busy_induction h.pointLegal hb hs
    (fun _ _ hp _ => h.afterPin hp)
    (fun l v e _ => State.legal_of_rest rfl (s.chipSized_pinFailed l v e))
    h.afterWait
    (State.legal_of_rest rfl h.chipSized)

theorem State.Legal.step_idle {s t : State} (h : s.Legal) (hi : s.xp.phase = .idle)
    (hs : step s = .next t) : t.Legal := by
  rcases step_idle_next_cases hi hs with ⟨-, rfl⟩ | ⟨w, frame, rest, v, -, hv, rfl⟩ | ⟨m, rest, -, hm⟩
  · exact h
  · have hrest : State.Legal { s with host := rest } := h
    refine hrest.startCall frame ?_
    rintro rfl
    rcases hv with ⟨-, hv⟩ | ⟨-, hempty, -⟩
    · cases hv
    · exact hempty
  · have hrest : State.xp { s with host := rest } = .rest := h.pointLegal.rest_of_idle hi
    have hsized : State.ChipSized { s with host := rest } := h.chipSized
    exact State.legal_of_rest (State.onHostMove_moved_xp hrest hm) (hsized.onHostMove hm)

/-- The one fault of a step is the frame read outside the frame (R52). -/
theorem step_ne_fault {s : State} (h : s.PointLegal) (f : Fault) : step s ≠ .fault f := by
  by_cases hi : s.xp.phase = .idle
  · cases hh : s.host with
    | nil => rw [step_of_idle hi hh]; nofun
    | cons m rest =>
      cases m with
      | command w frame =>
        rw [step_of_command hi hh]
        split
        next => nofun
        next => split <;> nofun
      | receive | drive | useDelay | reset => rw [step_of_move hi hh]; nofun
  · rcases h.busy_cases hi with ⟨l, v, hp, -⟩ | hw | h4
    · rw [step_of_phasePin hp]; nofun
    · rw [step_of_atWait hw]; nofun
    · rw [step_of_s4c h4]; nofun

/-- Settles O30: a step of a call and a step from `IDLE` both keep a state legal. -/
theorem legalIsInvariant : Obligations.LegalIsInvariant := by
  refine ⟨fun s t h hs => ?_, fun s f h => step_ne_fault h f⟩
  by_cases hi : s.xp.phase = .idle
  · exact h.step_idle hi hs
  · exact h.step_busy hi hs

end Sys2Proof.Machine
end

section
/-!
PROOFS. A call on its course (R150, R176, R178, R179, R236 to R239): from one execution point to the next the
trace grows by the phase's own event, and the wires and the chip follow it.
-/

namespace Sys2Proof.Machine

/-! The trace: one event per point -/

/-- The event of the phase at `x` where every operation is answered `ok` (R93). -/
def phaseEvent (data : List Byte) (x : ExecPoint) : Event :=
  match phasePin data x with
  | some (l, v) => okPin l v
  | none => unitWait

theorem phaseEvent_of_phasePin {data : List Byte} {x : ExecPoint} {l : Line} {v : Level}
    (hp : phasePin data x = some (l, v)) : phaseEvent data x = okPin l v := by
  simp only [phaseEvent, hp]

theorem phaseEvent_of_none {data : List Byte} {x : ExecPoint} (hp : phasePin data x = none) :
    phaseEvent data x = unitWait := by
  simp only [phaseEvent, hp]

/-- What `S3A` issues at a legal point is the bit of the stream (R160, R172). -/
theorem phasePin_s3a_streamBit {data : List Byte} {x : ExecPoint} (hp : x.phase = .s3a)
    (hin : x.byteIdx < data.length) :
    phasePin data x = some (.data, levelOfBit (streamBit data (bitNumber x))) := by
  have hb : data[x.byteIdx]? = some data[x.byteIdx] := List.getElem?_eq_getElem hin
  simp [phasePin, hp, hb, streamBit_bitNumber data x _ hb]

/-- The events before the next point are those before this one and its own (R150, R174). -/
theorem eventsBefore_nextPoint {data : List Byte} {x : ExecPoint} (h : LegalPoint data x)
    (hi : x.phase ≠ .idle) (h4 : x.phase ≠ .s4c) :
    eventsBefore data (nextPoint data.length x) = eventsBefore data x ++ [phaseEvent data x] := by
  obtain ⟨p, i, j⟩ := x
  cases p
  case idle => exact absurd rfl hi
  case s4c => exact absurd rfl h4
  case s1a | s1b | s2a | s2b | s2c | s2d | s2e => rfl
  case s2f =>
    rcases afterClear_cases data with ⟨rfl, hx⟩ | ⟨-, hx⟩
    · rfl
    · simp only [nextPoint, hx]
      simp [eventsBefore, bitNumber, phaseOffset, phaseEvent, phasePin]
      rfl
  case s3a =>
    rw [phaseEvent_of_phasePin (phasePin_s3a_streamBit rfl (h.inside rfl rfl))]
    simp [eventsBefore, nextPoint, phaseOffset, bitEvents, bitNumber]
  case s3e =>
    have hin : i < data.length := h.inside rfl rfl
    have hlast : eventsBefore data ⟨.s3e, i, j⟩ ++ [phaseEvent data ⟨.s3e, i, j⟩]
        = loadedEvents data (bitNumber ⟨.s3e, i, j⟩ + 1) := by
      rw [loadedEvents_succ data _ (bitNumber_lt hin)]
      simp [eventsBefore, phaseOffset, bitEvents, phaseEvent, phasePin]
    rw [hlast]
    rcases afterBit_cases data.length i j hin with ⟨y, hy, hphase, -, hk⟩ | ⟨hx, hk⟩
    · simp [nextPoint, hy, eventsBefore, hphase, hk, phaseOffset]
    · simp [nextPoint, hx, eventsBefore, hk, phaseOffset]
  all_goals
    simp [eventsBefore, nextPoint, phaseOffset, bitEvents, bitNumber, phaseEvent, phasePin, latchPulse]

theorem State.TraceOnCourse.of_nextPoint {s t : State} (h : s.TraceOnCourse) (hl : s.PointLegal)
    (hb : s.xp.phase ≠ .idle) (h4 : s.xp.phase ≠ .s4c) (hxp : t.xp = nextPoint s.data.length s.xp)
    (hdata : t.data = s.data) (htrace : t.trace = s.trace ++ [phaseEvent s.data s.xp]) :
    t.TraceOnCourse := by
  intro _
  rw [htrace, hdata, hxp, eventsBefore_nextPoint hl hb h4, h ((s.busy_iff).mpr hb)]

/-! The wires -/

theorem State.WiresOnCourse.afterPin {s : State} (h : s.WiresOnCourse) (hl : s.PointLegal) {l : Line}
    {v : Level} (hp : phasePin s.data s.xp = some (l, v)) : (s.afterPin l v).WiresOnCourse := by
  cases hx : s.xp.phase
  case s3a =>
    have hin : s.xp.byteIdx < s.data.length := LegalPoint.inside hl hx rfl
    rw [phasePin_s3a_streamBit hx hin] at hp
    cases hp
    simp_all [State.WiresOnCourse, nextPoint, bitNumber]
  case s3e =>
    obtain ⟨rfl, rfl⟩ : Line.data = l ∧ Level.lo = v := by simpa [phasePin, hx] using hp
    have hin : s.xp.byteIdx < s.data.length := LegalPoint.inside hl hx rfl
    rcases afterBit_cases s.data.length s.xp.byteIdx s.xp.bitIdx hin with ⟨y, hy, hphase, -⟩ | ⟨hy, -⟩
    · simp_all [State.WiresOnCourse, nextPoint]
    · simp_all [State.WiresOnCourse, nextPoint]
  case idle | s2c | s2f | s3b | s3c2 | s4a | s4c => simp [phasePin, hx] at hp
  all_goals
    simp only [phasePin, hx, Option.some.injEq, Prod.mk.injEq] at hp
    obtain ⟨rfl, rfl⟩ := hp
    simp_all [State.WiresOnCourse, nextPoint, bitNumber]

theorem State.WiresOnCourse.afterWait {s : State} (h : s.WiresOnCourse) (hw : s.AtWait) :
    s.afterWait.WiresOnCourse := by
  obtain ⟨hi, hp, h4, h3⟩ := hw
  cases hx : s.xp.phase
  case idle => exact absurd hx hi
  case s4c => exact absurd hx h4
  case s3a => exact absurd hx h3
  case s2f =>
    rcases afterClear_cases s.data with ⟨hdata, hy⟩ | ⟨-, hy⟩
    · simp_all [State.WiresOnCourse, nextPoint]
    · simp_all [State.WiresOnCourse, nextPoint, bitNumber]
  case s2c | s3b | s3c2 | s4a => simp_all [State.WiresOnCourse, nextPoint, bitNumber]
  all_goals simp [phasePin, hx] at hp

/-! The chip -/

/-- The level on `DATA` is the bit that the edge shifts in (R91, R233). -/
theorem levelOfBit_eq_hi (b : Bool) : decide (levelOfBit b = .hi) = b := by
  cases b <;> rfl

/-- The edge of `S3C1` shifts the bit on `DATA` in (R162, R233, R239). -/
theorem State.ChipOnCourse.shiftBit {s : State} (h : s.ChipOnCourse) (hw : s.WiresOnCourse)
    (hl : s.PointLegal) (hx : s.xp.phase = .s3c1) :
    (s.pinDone .shift .hi).sr =
      chipLoaded s.cfg.chipDepth ((frameBits s.data).take (bitNumber s.xp + 1)) := by
  have hin : s.xp.byteIdx < s.data.length := LegalPoint.inside hl hx rfl
  simp only [State.WiresOnCourse, hx] at hw
  simp only [State.ChipOnCourse, hx] at h
  obtain ⟨hclr, hshift, -, hdata⟩ := hw
  rw [State.pinDone_shiftHi_shift hshift hclr hdata, levelOfBit_eq_hi, h,
    frameBits_take_succ s.data _ (bitNumber_lt hin), chipLoaded_snoc]

theorem State.ChipOnCourse.afterPin {s : State} (h : s.ChipOnCourse) (hw : s.WiresOnCourse)
    (hl : s.PointLegal) {l : Line} {v : Level} (hp : phasePin s.data s.xp = some (l, v)) :
    (s.afterPin l v).ChipOnCourse := by
  cases hx : s.xp.phase
  case s2b =>
    obtain ⟨rfl, rfl⟩ : Line.shift = l ∧ Level.hi = v := by simpa [phasePin, hx] using hp
    simp only [State.WiresOnCourse, hx] at hw
    obtain ⟨hclr, hshift, -⟩ := hw
    simp [State.ChipOnCourse, nextPoint, hx, State.pinDone_shiftHi_clear hshift hclr]
  case s3a =>
    have hin : s.xp.byteIdx < s.data.length := LegalPoint.inside hl hx rfl
    rw [phasePin_s3a_streamBit hx hin] at hp
    cases hp
    simpa [State.ChipOnCourse, hx, nextPoint, bitNumber] using h
  case s3c1 =>
    obtain ⟨rfl, rfl⟩ : Line.shift = l ∧ Level.hi = v := by simpa [phasePin, hx] using hp
    simpa [State.ChipOnCourse, hx, nextPoint, bitNumber] using h.shiftBit hw hl hx
  case s3e =>
    obtain ⟨rfl, rfl⟩ : Line.data = l ∧ Level.lo = v := by simpa [phasePin, hx] using hp
    have hin : s.xp.byteIdx < s.data.length := LegalPoint.inside hl hx rfl
    simp only [State.ChipOnCourse, hx] at h
    rcases afterBit_cases s.data.length s.xp.byteIdx s.xp.bitIdx hin with
      ⟨y, hy, hphase, -, hk⟩ | ⟨hy, hk⟩
    · have hk' : bitNumber y = bitNumber s.xp + 1 := hk
      simpa [State.ChipOnCourse, hx, nextPoint, hy, hphase, hk'] using h
    · have hall : (frameBits s.data).take (bitNumber s.xp + 1) = frameBits s.data :=
        List.take_of_length_le (by rw [frameBits_length, ← hk]; exact le_rfl)
      simpa [State.ChipOnCourse, hx, nextPoint, hy, hall] using h
  case s4b =>
    obtain ⟨rfl, rfl⟩ : Line.latch = l ∧ Level.hi = v := by simpa [phasePin, hx] using hp
    simp only [State.WiresOnCourse, hx] at hw
    obtain ⟨-, -, hlatch, -⟩ := hw
    simpa [State.ChipOnCourse, hx, nextPoint, State.pinDone_latchHi_rise hlatch] using h
  case idle | s2c | s2f | s3b | s3c2 | s4a | s4c => simp [phasePin, hx] at hp
  case s1a | s1b | s2a => simp [State.ChipOnCourse, hx, nextPoint]
  all_goals
    simp only [phasePin, hx, Option.some.injEq, Prod.mk.injEq] at hp
    obtain ⟨rfl, rfl⟩ := hp
    simpa [State.ChipOnCourse, hx, nextPoint, bitNumber] using h

theorem State.ChipOnCourse.afterWait {s : State} (h : s.ChipOnCourse) (hw : s.AtWait) :
    s.afterWait.ChipOnCourse := by
  obtain ⟨hi, hp, h4, h3⟩ := hw
  cases hx : s.xp.phase
  case idle => exact absurd hx hi
  case s4c => exact absurd hx h4
  case s3a => exact absurd hx h3
  case s2f =>
    rcases afterClear_cases s.data with ⟨hdata, hy⟩ | ⟨-, hy⟩
    · have hnone : frameBits s.data = [] := by rw [hdata]; rfl
      simpa [State.ChipOnCourse, nextPoint, hx, hy, hnone] using h
    · simpa [State.ChipOnCourse, nextPoint, hx, hy, bitNumber] using h
  case s2c | s3b | s3c2 | s4a => simpa [State.ChipOnCourse, nextPoint, hx, bitNumber] using h
  all_goals simp [phasePin, hx] at hp

/-! Trace, wires and chip together -/

theorem State.OnCourse.afterPin {s : State} (h : s.OnCourse) (hl : s.PointLegal) {l : Line} {v : Level}
    (hp : phasePin s.data s.xp = some (l, v)) : (s.afterPin l v).OnCourse := by
  obtain ⟨htrace, hwires, hchip⟩ := h
  refine ⟨?_, hwires.afterPin hl hp, hchip.afterPin hwires hl hp⟩
  exact State.TraceOnCourse.of_nextPoint htrace hl (phase_ne_idle_of_phasePin hp)
    (phase_ne_s4c_of_phasePin hp) rfl (s.afterPin_data l v)
    (by rw [phaseEvent_of_phasePin hp, State.afterPin_trace])

theorem State.OnCourse.afterWait {s : State} (h : s.OnCourse) (hl : s.PointLegal) (hw : s.AtWait) :
    s.afterWait.OnCourse := by
  obtain ⟨htrace, hwires, hchip⟩ := h
  have ⟨hi, hp, h4, _⟩ := hw
  refine ⟨?_, hwires.afterWait hw, hchip.afterWait hw⟩
  exact State.TraceOnCourse.of_nextPoint htrace hl hi h4 rfl rfl
    (by rw [phaseEvent_of_none hp, State.afterWait_trace])

/-- The start of a call: an empty trace, and nothing said of wires and chip (R111). -/
theorem State.onCourse_startCall (s : State) (v : Variant) (frame : List Byte) :
    (s.startCall v frame).OnCourse :=
  ⟨fun _ => rfl, trivial, trivial⟩

/-- Settles O31: a step of a call goes on to the next point or ends at rest, and one from `IDLE` starts a call
or stays at rest. -/
theorem onCourseIsInvariant : Obligations.OnCourseIsInvariant := by
  intro s t hl h hs
  have hpoint := hl.pointLegal
  by_cases hi : s.xp.phase = .idle
  · rcases step_idle_next_cases hi hs with ⟨-, rfl⟩ | ⟨_, frame, _, v, -, -, rfl⟩ | ⟨m, rest, -, hm⟩
    · exact h
    · exact State.onCourse_startCall _ v frame
    · have hrest : State.xp { s with host := rest } = .rest := hpoint.rest_of_idle hi
      exact State.onCourse_of_idle (congrArg ExecPoint.phase (State.onHostMove_moved_xp hrest hm))
  · exact step_busy_induction hpoint hi hs
      (fun _ _ hp _ => h.afterPin hpoint hp)
      (fun _ _ _ _ => State.onCourse_of_idle rfl)
      (h.afterWait hpoint)
      (State.onCourse_of_idle rfl)

end Sys2Proof.Machine
end

section
/-!
PROOFS. The trace of a frame as a list (R100, R150): its counts (R171), its positions (R160 to R168), and the
events that are still ahead at an execution point.
-/

namespace Sys2Proof.Machine

/-! Counts: each bit gives the same operations but for its level on `DATA` -/

theorem countP_flatMap_bitEvents (p : Event → Bool) (bits : List Bool) :
    (bits.flatMap bitEvents).countP p =
      (bitEvents true).countP p * bits.count true + (bitEvents false).countP p * bits.count false := by
  induction bits with
  | nil => rfl
  | cons b bs ih =>
    rw [List.flatMap_cons, List.countP_append, ih]
    cases b <;> simp <;> ring

/-- The count of a kind of event in the trace of a frame, from its counts outside the bits, in a 1 bit and in a
0 bit. -/
theorem countP_frameTrace {p : Event → Bool} {outside perOne perZero : Nat}
    (houtside : (opening ++ latchPulse).countP p = outside)
    (hperOne : (bitEvents true).countP p = perOne) (hperZero : (bitEvents false).countP p = perZero)
    (data : List Byte) :
    (frameTrace data).countP p =
      outside + perOne * (frameBits data).count true + perZero * (frameBits data).count false := by
  subst houtside hperOne hperZero
  rw [frameTrace_eq, List.countP_append, List.countP_append, List.countP_append,
    countP_flatMap_bitEvents]
  omega

theorem count_frameTrace {ev : Event} {outside perOne perZero : Nat}
    (houtside : (opening ++ latchPulse).count ev = outside)
    (hperOne : (bitEvents true).count ev = perOne) (hperZero : (bitEvents false).count ev = perZero)
    (data : List Byte) :
    (frameTrace data).count ev =
      outside + perOne * (frameBits data).count true + perZero * (frameBits data).count false :=
  countP_frameTrace houtside hperOne hperZero data

theorem frameBits_counts (data : List Byte) :
    (frameBits data).count true + (frameBits data).count false = 8 * data.length := by
  rw [List.count_true_add_count_false, frameBits_length]

theorem pinCount_frameTrace (data : List Byte) : pinCount (frameTrace data) = 7 + 32 * data.length := by
  have hcount := countP_frameTrace (p := Event.isPin) (outside := 7) (perOne := 4) (perZero := 4)
    rfl rfl rfl data
  have hbits := frameBits_counts data
  rw [pinCount, hcount]
  omega

theorem waitCount_frameTrace (data : List Byte) : waitCount (frameTrace data) = 4 + 16 * data.length := by
  have hcount := countP_frameTrace (p := fun ev => !Event.isPin ev) (outside := 4) (perOne := 2)
    (perZero := 2) rfl rfl rfl data
  have hbits := frameBits_counts data
  rw [waitCount, hcount]
  omega

theorem frameTrace_length (data : List Byte) : (frameTrace data).length = 11 + 48 * data.length := by
  have hsplit : (frameTrace data).length = pinCount (frameTrace data) + waitCount (frameTrace data) := by
    rw [pinCount, waitCount, List.length_eq_countP_add_countP Event.isPin]
    simp
  rw [hsplit, pinCount_frameTrace, waitCount_frameTrace]
  omega

/-! Positions -/

/-- What has been issued when `k` bits are loaded begins the trace of the frame (R178). -/
theorem loadedEvents_prefix (data : List Byte) (k : Nat) : loadedEvents data k <+: frameTrace data := by
  refine ⟨((frameBits data).drop k).flatMap bitEvents ++ latchPulse, ?_⟩
  rw [frameTrace_eq, loadedEvents]
  conv_rhs => rw [← List.take_append_drop k (frameBits data), List.flatMap_append]
  simp only [List.append_assoc]

theorem loadedEvents_length {data : List Byte} {k : Nat} (h : k ≤ 8 * data.length) :
    (loadedEvents data k).length = 8 + 6 * k := by
  simp [loadedEvents, List.length_flatMap, h]
  omega

/-- The six events of bit `k` (R160 to R165). -/
theorem frameTrace_bit {data : List Byte} {k i n : Nat} (hk : k < 8 * data.length) (hi : i < 6)
    (hn : n = 8 + 6 * k + i) : (frameTrace data)[n]? = (bitEvents (streamBit data k))[i]? := by
  subst hn
  obtain ⟨rest, hrest⟩ := loadedEvents_prefix data (k + 1)
  have hlen := loadedEvents_length hk.le
  rw [← hrest, loadedEvents_succ data k hk, List.append_assoc,
    List.getElem?_append_right (by omega), hlen, Nat.add_sub_cancel_left,
    List.getElem?_append_left (by simpa using hi)]

/-- The last three events (R166 to R168). -/
theorem frameTrace_latch {data : List Byte} {i n : Nat} (hn : n = 8 + 48 * data.length + i) :
    (frameTrace data)[n]? = latchPulse[i]? := by
  subst hn
  have hlen := loadedEvents_length (data := data) le_rfl
  rw [← loadedEvents_all, List.getElem?_append_right (by omega)]
  congr 1
  omega

/-! The events ahead of an execution point -/

/-- The events that a call at the point `x` has still to issue, if every operation is answered `ok`. -/
def eventsAhead (data : List Byte) (x : ExecPoint) : List Event :=
  (frameTrace data).drop (eventsBefore data x).length

/-- The events before a legal point begin the trace of the frame (R178). -/
theorem eventsBefore_prefix {data : List Byte} {x : ExecPoint} (h : LegalPoint data x) :
    eventsBefore data x <+: frameTrace data := by
  have hopening : opening <+: frameTrace data := by simpa using loadedEvents_prefix data 0
  cases hp : x.phase
  case idle => simp [eventsBefore, hp]
  case s3a | s3b | s3c1 | s3c2 | s3d | s3e =>
    have hin : x.byteIdx < data.length := h.inside hp rfl
    have hnext := loadedEvents_prefix data (bitNumber x + 1)
    rw [loadedEvents_succ data _ (bitNumber_lt hin)] at hnext
    simp only [eventsBefore, hp]
    exact ((List.prefix_append_right_inj _).mpr (List.take_prefix _ _)).trans hnext
  case s4a | s4b | s4c =>
    simp only [eventsBefore, hp]
    rw [← loadedEvents_all]
    exact (List.prefix_append_right_inj _).mpr (List.take_prefix _ _)
  all_goals
    simp only [eventsBefore, hp]
    exact (List.take_prefix _ _).trans hopening

theorem eventsBefore_append_ahead {data : List Byte} {x : ExecPoint} (h : LegalPoint data x) :
    eventsBefore data x ++ eventsAhead data x = frameTrace data :=
  (List.prefix_append_drop (eventsBefore_prefix h)).symm

/-- The first event ahead is the phase's own; the others are ahead of the next point. -/
theorem eventsAhead_cons {data : List Byte} {x : ExecPoint} (h : LegalPoint data x)
    (hi : x.phase ≠ .idle) (h4 : x.phase ≠ .s4c) :
    eventsAhead data x = phaseEvent data x :: eventsAhead data (nextPoint data.length x) := by
  have hnext := eventsBefore_append_ahead h.nextPoint
  rw [eventsBefore_nextPoint h hi h4, ← eventsBefore_append_ahead h, List.append_assoc] at hnext
  exact (List.append_cancel_left hnext).symm

theorem eventsAhead_s4c {data : List Byte} {x : ExecPoint} (h : LegalPoint data x)
    (h4 : x.phase = .s4c) : eventsAhead data x = [unitWait] := by
  have hall := eventsBefore_append_ahead h
  rw [← loadedEvents_all] at hall
  simp only [eventsBefore, h4, List.append_assoc] at hall
  exact List.append_cancel_left (List.append_cancel_left hall)

/-- At the start of a call the whole trace is ahead. -/
theorem eventsAhead_start (data : List Byte) : eventsAhead data ⟨.s1a, 0, 0#3⟩ = frameTrace data := rfl

end Sys2Proof.Machine
end

section
/-!
PROOFS. Whole calls: the induction along the events ahead, and what a call comes to when every pin operation is
answered `ok` and when one fails (R114, R171, R174, R176 to R178, R239).
-/

namespace Sys2Proof.Machine

/-! Runs -/

theorem runs_succ {s t : State} (h : step s = .next t) (n : Nat) : runs (n + 1) s = runs n t := by
  simp only [runs, h]

/-! The induction along a call -/

section Ahead
variable {s : State}

theorem eventsAhead_of_pin {l : Line} {v : Level} (h : s.PointLegal)
    (hp : phasePin s.data s.xp = some (l, v)) :
    eventsAhead s.data s.xp = okPin l v :: eventsAhead (s.afterPin l v).data (s.afterPin l v).xp := by
  rw [eventsAhead_cons h (phase_ne_idle_of_phasePin hp) (phase_ne_s4c_of_phasePin hp),
    phaseEvent_of_phasePin hp, State.afterPin_data, State.afterPin_xp]

theorem eventsAhead_of_wait (h : s.PointLegal) (hw : s.AtWait) :
    eventsAhead s.data s.xp = unitWait :: eventsAhead s.afterWait.data s.afterWait.xp := by
  obtain ⟨hi, hp, h4, -⟩ := hw
  rw [eventsAhead_cons h hi h4, phaseEvent_of_none hp, State.afterWait_data, State.afterWait_xp]

end Ahead

/-- Off `S4C` an answered operation of a call does not end it (R174). -/
theorem State.afterPin_busy {s : State} {l : Line} {v : Level} (hp : phasePin s.data s.xp = some (l, v)) :
    (s.afterPin l v).xp.phase ≠ .idle :=
  nextPoint_phase_ne_idle s.data (phase_ne_idle_of_phasePin hp) (phase_ne_s4c_of_phasePin hp)

theorem State.afterWait_busy {s : State} (hw : s.AtWait) : s.afterWait.xp.phase ≠ .idle := by
  obtain ⟨hi, -, h4, -⟩ := hw
  exact nextPoint_phase_ne_idle s.data hi h4

/-- Induction backwards from the end of a call, along its operations and their answers: the events ahead get
fewer with every step that goes on. -/
theorem State.call_induction {P : (s : State) → s.Legal → s.xp.phase ≠ .idle → Prop}
    (pinOk : ∀ (s : State) (l : Line) (v : Level) (h : s.Legal)
      (hp : phasePin s.data s.xp = some (l, v)), s.answer = .ok →
      P (s.afterPin l v) (h.afterPin hp) (State.afterPin_busy hp) → P s h (phase_ne_idle_of_phasePin hp))
    (pinErr : ∀ (s : State) (l : Line) (v : Level) (e : ErrCode) (h : s.Legal)
      (hp : phasePin s.data s.xp = some (l, v)), s.answer = .err e →
      P s h (phase_ne_idle_of_phasePin hp))
    (wait : ∀ (s : State) (h : s.Legal) (hw : s.AtWait),
      P s.afterWait (h.afterWait hw) (State.afterWait_busy hw) → P s h hw.busy)
    (last : ∀ (s : State) (h : s.Legal) (h4 : s.xp.phase = .s4c), P s h (by simp [h4]))
    (s : State) (h : s.Legal) (hb : s.xp.phase ≠ .idle) : P s h hb := by
  rcases h.pointLegal.busy_cases hb with ⟨l, v, hp, ha | ⟨e, ha⟩⟩ | hw | h4
  · have hahead := eventsAhead_of_pin h.pointLegal hp
    exact pinOk s l v h hp ha (call_induction pinOk pinErr wait last _ _ _)
  · exact pinErr s l v e h hp ha
  · have hahead := eventsAhead_of_wait h.pointLegal hw
    exact wait s h hw (call_induction pinOk pinErr wait last _ _ _)
  · exact last s h h4
termination_by (eventsAhead s.data s.xp).length
decreasing_by
  all_goals rw [hahead]; exact Nat.lt_succ_self _

/-! Every call ends -/

/-- From every point of a call rest is reached in no more steps than there are events ahead (R174). -/
theorem runs_to_rest (s : State) (h : s.Legal) (hb : s.xp.phase ≠ .idle) :
    ∃ n t, n ≤ (eventsAhead s.data s.xp).length ∧ runs n s = some t ∧ t.xp = .rest
      ∧ t.response.isSome := by
  induction s, h, hb using State.call_induction with
  | pinOk s l v h hp ha ih =>
    obtain ⟨n, t, hn, hrun, hend⟩ := ih
    rw [eventsAhead_of_pin h.pointLegal hp]
    exact ⟨n + 1, t, Nat.succ_le_succ hn, by rwa [runs_succ (step_of_pin_ok hp ha)], hend⟩
  | pinErr s l v e h hp ha =>
    rw [eventsAhead_of_pin h.pointLegal hp]
    exact ⟨1, s.pinFailed l v e, by simp, runs_succ (step_of_pin_err hp ha) 0, rfl, rfl⟩
  | wait s h hw ih =>
    obtain ⟨n, t, hn, hrun, hend⟩ := ih
    rw [eventsAhead_of_wait h.pointLegal hw]
    exact ⟨n + 1, t, Nat.succ_le_succ hn, by rwa [runs_succ (step_of_atWait hw)], hend⟩
  | last s h h4 =>
    rw [eventsAhead_s4c h.pointLegal h4]
    exact ⟨1, _, le_rfl, runs_succ (step_of_s4c h4) 0, rfl, rfl⟩

/-- Settles O36: the events ahead are among those of the whole trace. -/
theorem everyCallEnds : Obligations.EveryCallEnds := by
  intro s h hb
  obtain ⟨n, t, hn, hrun, hend⟩ := runs_to_rest s h hb
  have hahead : (eventsAhead s.data s.xp).length ≤ 11 + 48 * s.data.length := by
    rw [← frameTrace_length, eventsAhead, List.length_drop]
    exact Nat.sub_le _ _
  exact ⟨n, t, hn.trans hahead, hrun, hend⟩

/-! The answers along a call (R131) -/

section Answers
variable {s : State} {l : Line} {v : Level}

theorem State.afterPin_answerAt (k : Nat) : (s.afterPin l v).answerAt k = s.answerAt (k + 1) :=
  State.answerAt_of_taken (congrArg Platform.errs (s.afterPin_cfg l v)) (s.pinDone_answers l v)
    (s.pinDone_asked l v) k

theorem State.AllOk.answer {n : Nat} (h : s.AllOk (n + 1)) : s.answer = .ok := h 0 n.succ_pos

theorem State.AllOk.afterPin {n : Nat} (h : s.AllOk (n + 1)) : (s.afterPin l v).AllOk n := fun k hk => by
  rw [State.afterPin_answerAt]
  exact h (k + 1) (Nat.succ_lt_succ hk)

end Answers

@[simp] theorem pinCount_okPin_cons (l : Line) (v : Level) (t : List Event) :
    pinCount (okPin l v :: t) = pinCount t + 1 :=
  List.countP_cons_of_pos rfl

@[simp] theorem pinCount_unitWait_cons (t : List Event) : pinCount (unitWait :: t) = pinCount t :=
  List.countP_cons_of_neg (by decide)

/-! A call whose next failing answer comes after `g` good ones -/

/-- The failing pin operation is the last event, and the response is its error (R177, R178). -/
theorem runs_to_failure (e : ErrCode) (s : State) (h : s.Legal) (hb : s.xp.phase ≠ .idle) :
    ∀ g < pinCount (eventsAhead s.data s.xp), s.AllOk g → s.answerAt g = .err e →
      ∃ n t, runs n s = some t ∧ t.xp = .rest
        ∧ t.trace = s.trace ++ failedAt e (g + 1) (eventsAhead s.data s.xp)
        ∧ t.response = some (.err e) := by
  induction s, h, hb using State.call_induction with
  | pinOk s l v h hp ha ih =>
    intro g hg hok he
    rw [eventsAhead_of_pin h.pointLegal hp] at hg ⊢
    cases g with
    | zero => rw [State.answer] at ha; rw [ha] at he; cases he
    | succ g =>
      obtain ⟨n, t, hrun, hrest, htrace, hresponse⟩ :=
        ih g (by simpa using hg) hok.afterPin (by rwa [State.afterPin_answerAt])
      refine ⟨n + 1, t, by rwa [runs_succ (step_of_pin_ok hp ha)], hrest, ?_, hresponse⟩
      rw [htrace, State.afterPin_trace, List.append_assoc]
      rfl
  | pinErr s l v e' h hp ha =>
    intro g _ hok he
    have hg : g = 0 := by
      cases g with
      | zero => rfl
      | succ g => rw [hok.answer] at ha; cases ha
    subst hg
    obtain rfl : e' = e := by rw [State.answer, he] at ha; cases ha; rfl
    rw [eventsAhead_of_pin h.pointLegal hp]
    exact ⟨1, s.pinFailed l v e', runs_succ (step_of_pin_err hp ha) 0, rfl, rfl,
      h.pinFailed_response (phase_ne_idle_of_phasePin hp) ha l v⟩
  | wait s h hw ih =>
    intro g hg hok he
    rw [eventsAhead_of_wait h.pointLegal hw] at hg ⊢
    obtain ⟨n, t, hrun, hrest, htrace, hresponse⟩ := ih g (by simpa using hg) hok he
    refine ⟨n + 1, t, by rwa [runs_succ (step_of_atWait hw)], hrest, ?_, hresponse⟩
    rw [htrace, State.afterWait_trace, List.append_assoc]
    rfl
  | last s h h4 =>
    intro g hg
    rw [eventsAhead_s4c h.pointLegal h4] at hg
    exact absurd hg (Nat.not_lt_zero g)

/-! A call whose pin operations are all answered `ok` -/

theorem runs_snoc {s u t : State} {n : Nat} (hrun : runs n s = some u) (hs : step u = .next t) :
    runs (n + 1) s = some t := by
  induction n generalizing s with
  | zero => cases hrun; rw [runs_succ hs]; rfl
  | succ n ih =>
    rw [runs] at hrun ⊢
    split at hrun
    next => exact ih hrun
    next => cases hrun

/-- The state `s` is in a call of the frame `frame` that was started in `s₀`: it is on its course, and what no
phase of the call writes is as it was, the `DATA` line among it where the frame is empty (R176, R179). -/
structure CallFrom (s₀ : State) (v : Variant) (frame : List Byte) (s : State) : Prop where
  onCourse : s.OnCourse
  cfg_eq : s.cfg = s₀.cfg
  variant_eq : s.variant = v
  data_eq : s.data = frame
  dataWire_eq : frame = [] → s.wires.data = s₀.wires.data

/-- With an empty frame no phase drives `DATA` (R159, R169). -/
theorem phasePin_line_ne_data {data : List Byte} {x : ExecPoint} {l : Line} {v : Level}
    (h : LegalPoint data x) (hempty : data = []) (hp : phasePin data x = some (l, v)) : .data ≠ l := by
  subst hempty
  rintro rfl
  cases hx : x.phase
  case s3a | s3e => exact absurd (h.inside hx rfl) (Nat.not_lt_zero _)
  all_goals simp [phasePin, hx] at hp

section CallFrom
variable {s₀ s : State} {v₀ : Variant} {data : List Byte}

theorem CallFrom.startCall (s : State) (rest : List HostMove) (v : Variant) (data : List Byte) :
    CallFrom s v data (State.startCall { s with host := rest } v data) :=
  ⟨State.onCourse_startCall _ v data, rfl, rfl, rfl, fun _ => rfl⟩

theorem CallFrom.afterPin (h : CallFrom s₀ v₀ data s) (hl : s.PointLegal) {l : Line} {v : Level}
    (hp : phasePin s.data s.xp = some (l, v)) : CallFrom s₀ v₀ data (s.afterPin l v) where
  onCourse := h.onCourse.afterPin hl hp
  cfg_eq := (s.afterPin_cfg l v).trans h.cfg_eq
  variant_eq := (s.afterPin_variant l v).trans h.variant_eq
  data_eq := (s.afterPin_data l v).trans h.data_eq
  dataWire_eq hempty := by
    have hline := phasePin_line_ne_data hl (h.data_eq.trans hempty) hp
    rw [← h.dataWire_eq hempty, State.afterPin_wires]
    exact Wires.get_set_other s.wires _ hline

theorem CallFrom.afterWait (h : CallFrom s₀ v₀ data s) (hl : s.PointLegal) (hw : s.AtWait) :
    CallFrom s₀ v₀ data s.afterWait :=
  ⟨h.onCourse.afterWait hl hw, h.cfg_eq, h.variant_eq, h.data_eq, h.dataWire_eq⟩

/-- The last wait completes the trace of the frame (R168, R178). -/
theorem CallFrom.trace_last (h : CallFrom s₀ v₀ data s) (h4 : s.xp.phase = .s4c) :
    s.trace ++ [unitWait] = frameTrace data := by
  obtain ⟨htrace, -⟩ := h.onCourse
  rw [htrace ((s.busy_iff).mpr (by simp [h4])), h.data_eq, ← loadedEvents_all]
  simp [eventsBefore, h4, phaseOffset, latchPulse]

end CallFrom

/-- Such a call reaches its last wait when all other events ahead have been issued (R174). -/
theorem runs_to_last {s₀ : State} {v₀ : Variant} {data : List Byte} (s : State) (h : s.Legal)
    (hb : s.xp.phase ≠ .idle) (hcall : CallFrom s₀ v₀ data s)
    (hok : s.AllOk (pinCount (eventsAhead s.data s.xp))) :
    ∃ n u, n + 1 = (eventsAhead s.data s.xp).length ∧ runs n s = some u ∧ u.xp.phase = .s4c
      ∧ CallFrom s₀ v₀ data u := by
  induction s, h, hb using State.call_induction with
  | pinOk s l v h hp ha ih =>
    rw [eventsAhead_of_pin h.pointLegal hp] at hok ⊢
    rw [pinCount_okPin_cons] at hok
    obtain ⟨n, u, hn, hrun, hlast⟩ := ih (hcall.afterPin h.pointLegal hp) hok.afterPin
    exact ⟨n + 1, u, congrArg (· + 1) hn, by rwa [runs_succ (step_of_pin_ok hp ha)], hlast⟩
  | pinErr s l v e h hp ha =>
    rw [eventsAhead_of_pin h.pointLegal hp, pinCount_okPin_cons] at hok
    rw [hok.answer] at ha
    cases ha
  | wait s h hw ih =>
    rw [eventsAhead_of_wait h.pointLegal hw] at hok ⊢
    obtain ⟨n, u, hn, hrun, hlast⟩ := ih (hcall.afterWait h.pointLegal hw) hok
    exact ⟨n + 1, u, congrArg (· + 1) hn, by rwa [runs_succ (step_of_atWait hw)], hlast⟩
  | last s h h4 =>
    rw [eventsAhead_s4c h.pointLegal h4]
    exact ⟨0, s, rfl, rfl, h4, hcall⟩

/-! From the command on (R111, R112) -/

/-- The `variant` of the command `w` (R82). -/
def commandVariant (w : CommandWord) : Variant := if w = 0#1 then .shiftOut else .infallible

section Accepted
variable {s : State} {w : CommandWord} {data : List Byte}

/-- The step that takes an accepted command starts the call, in a legal state with the same answers to come. -/
theorem CallAccepted.step (h : CallAccepted s w data) :
    ∃ rest, step s = .next (State.startCall { s with host := rest } (commandVariant w) data)
      ∧ (State.startCall { s with host := rest } (commandVariant w) data).Legal := by
  obtain ⟨hlegal, hi, hhost, hoffered⟩ := h
  obtain ⟨rest, hhost⟩ := List.head?_eq_some_iff.mp hhost
  have hstep := step_of_command hi hhost
  have hstart : Machine.step s =
      .next (State.startCall { s with host := rest } (commandVariant w) data) := by
    rw [hstep, commandVariant]
    by_cases hw : w = 0#1
    · simp only [hw, if_true]
    · simp only [hw, if_false, hoffered.resolve_left hw, if_true]
  exact ⟨rest, hstart, hlegal.step_idle hi hstart⟩

/-- A call that goes well comes to its last wait, on its course, and ends with it (R168, R174). -/
theorem CallGoesWell.ends (h : CallGoesWell s w data) :
    ∃ u, u.xp.phase = .s4c ∧ CallFrom s (commandVariant w) data u
      ∧ runs (12 + 48 * data.length) s = some ((u.record (.wait delayUnit)).respond .ok) := by
  obtain ⟨haccepted, hok⟩ := h
  obtain ⟨rest, hstart, hlegal⟩ := haccepted.step
  rw [← pinCount_frameTrace] at hok
  obtain ⟨n, u, hn, hrun, h4, hcall⟩ :=
    runs_to_last _ hlegal nofun (CallFrom.startCall s rest (commandVariant w) data) hok
  have hlen : n + 1 = 11 + 48 * data.length := hn.trans (frameTrace_length data)
  have hsteps : 12 + 48 * data.length = n + 1 + 1 := by omega
  refine ⟨u, h4, hcall, ?_⟩
  rw [hsteps, runs_succ hstart]
  exact runs_snoc hrun (step_of_s4c h4)

/-- Its trace is that of the frame (R178). -/
theorem CallGoesWell.trace (h : CallGoesWell s w data) :
    ∃ t, runs (12 + 48 * data.length) s = some t ∧ t.xp = .rest ∧ t.trace = frameTrace data := by
  obtain ⟨u, h4, hcall, hrun⟩ := h.ends
  exact ⟨_, hrun, rfl, hcall.trace_last h4⟩

end Accepted

/-- Settles O32: the call that goes well, and the one whose failing operation is number `f = g + 1`. -/
theorem traceOfACall : Obligations.TraceOfACall := by
  intro s w data haccepted
  refine ⟨fun hok => ?_, fun f e hf hfle hok he => ?_⟩
  · obtain ⟨t, hrun, hrest, htrace⟩ := CallGoesWell.trace ⟨haccepted, hok⟩
    exact ⟨t, hrun, hrest, htrace, by rw [htrace, frameTrace_length]⟩
  · obtain ⟨g, rfl⟩ : ∃ g, f = g + 1 := ⟨f - 1, by omega⟩
    obtain ⟨rest, hstart, hlegal⟩ := haccepted.step
    have hg : g < pinCount (frameTrace data) := by rw [pinCount_frameTrace]; omega
    obtain ⟨n, t, hrun, hrest, htrace, hresponse⟩ :=
      runs_to_failure e _ hlegal nofun g hg hok he
    exact ⟨n + 1, t, by rwa [runs_succ hstart], hrest, htrace, hresponse⟩

/-- Settles O33, from what the course says of wires and chip at the last wait. -/
theorem callLoadsChip : Obligations.CallLoadsChip := by
  intro s w data h
  obtain ⟨u, h4, hcall, hrun⟩ := h.ends
  obtain ⟨-, hwires, hchip⟩ := hcall.onCourse
  simp only [State.WiresOnCourse, h4, hcall.data_eq] at hwires
  simp only [State.ChipOnCourse, h4, hcall.data_eq, hcall.cfg_eq] at hchip
  obtain ⟨hclr, hshift, hlatch, hdata⟩ := hwires
  obtain ⟨hsr, hout⟩ := hchip
  have hresponse : u.portResponse .ok = if w = 0#1 then .ok else .completed := by
    rw [State.portResponse_eq, hcall.variant_eq, h4, commandVariant]
    by_cases hw : w = 0#1 <;> simp [hw]
  have hdataWire : u.wires.data = if data = [] then s.wires.data else .lo := by
    by_cases hempty : data = []
    · rw [if_pos hempty, hcall.dataWire_eq hempty]
    · rw [if_neg hempty, hdata (List.length_pos_iff.mpr hempty)]
  refine ⟨_, hrun, congrArg some hresponse, rfl, hclr, hshift, hlatch, hdataWire, hout, ?_, fun m hm => ?_⟩
  · rw [State.respond_sr, State.record_sr, hsr, chipLoaded_length]
  · rw [State.respond_sr, State.record_sr, hsr, chipLoaded_getElem? _ _ _ hm]

/-- Settles O34: the counts of the frame's trace. -/
theorem callCounts : Obligations.CallCounts := by
  intro s w data h
  obtain ⟨t, hrun, -, htrace⟩ := h.trace
  have hbits := frameBits_counts data
  refine ⟨t, hrun, ?_⟩
  rw [htrace]
  have hshiftHi : (frameTrace data).count (okPin .shift .hi) = 1 + 8 * data.length := by
    rw [count_frameTrace (outside := 1) (perOne := 1) (perZero := 1) rfl rfl rfl]; omega
  have hfirst : ((frameTrace data).take 7).count (okPin .shift .hi) = 1 := rfl
  have hsplit := congrArg (List.count (okPin .shift .hi)) (List.take_append_drop 7 (frameTrace data))
  rw [List.count_append] at hsplit
  refine ⟨pinCount_frameTrace data, waitCount_frameTrace data, frameTrace_length data, hshiftHi,
    by omega, ?_, ?_, ?_, ?_, ?_, ?_, ?_⟩
  · rw [count_frameTrace (outside := 2) (perOne := 1) (perZero := 1) rfl rfl rfl]; omega
  · rw [count_frameTrace (ev := okPin .data .lo) (outside := 0) (perOne := 1) (perZero := 2) rfl rfl rfl,
      count_frameTrace (outside := 0) (perOne := 1) (perZero := 0) rfl rfl rfl]
    omega
  · rw [count_frameTrace (outside := 0) (perOne := 1) (perZero := 0) rfl rfl rfl]; omega
  all_goals
    rw [count_frameTrace (outside := 1) (perOne := 0) (perZero := 0) rfl rfl rfl]; omega

/-- Settles O35: the positions in the frame's trace. -/
theorem tracePositions : Obligations.TracePositions := by
  intro s w data h
  obtain ⟨t, hrun, -, htrace⟩ := h.trace
  refine ⟨t, hrun, ?_⟩
  rw [htrace]
  exact ⟨fun k hk => ⟨frameTrace_bit (i := 0) hk (by decide) (by omega),
      frameTrace_bit (i := 1) hk (by decide) (by omega),
      frameTrace_bit (i := 2) hk (by decide) (by omega),
      frameTrace_bit (i := 3) hk (by decide) (by omega),
      frameTrace_bit (i := 4) hk (by decide) (by omega),
      frameTrace_bit (i := 5) hk (by decide) (by omega)⟩,
    frameTrace_latch (i := 0) (by omega), frameTrace_latch (i := 1) (by omega),
    frameTrace_latch (i := 2) (by omega)⟩

end Sys2Proof.Machine
end

section
/-!
PROOFS. The attached chip by line and level (R232 to R237), and the host's other moves between calls (R40,
R245).
-/

namespace Sys2Proof.Machine

/-! Stages of the shift register (R233) -/

theorem shiftIn_getElem?_zero {depth : Nat} (b : Bool) (sr : List Bool) (h : 0 < depth) :
    (shiftIn depth b sr)[0]? = some b := by
  rw [shiftIn, List.getElem?_take_of_lt h, List.getElem?_cons_zero]

theorem shiftIn_getElem?_succ {depth m : Nat} (b : Bool) (sr : List Bool) (h : m + 1 < depth) :
    (shiftIn depth b sr)[m + 1]? = sr[m]? := by
  rw [shiftIn, List.getElem?_take_of_lt h, List.getElem?_cons_succ]

/-! The edges that R237 leaves undecided, each with the draw that it uses up (log 5) -/

/-- Maybe a rising edge of the shift clock, or a rising one under an `Unknown` clear. -/
theorem State.pinDone_shiftHi_any {s : State}
    (h : s.wires.shift = .unknown ∨ s.wires.shift = .lo ∧ s.wires.clr = .unknown) :
    (s.pinDone .shift .hi).sr = freeStages s.cfg.chipDepth s.draws
      ∧ (s.pinDone .shift .hi).draws = s.draws + 1 := by
  rcases h with h | ⟨h, hc⟩
  · simp [State.pinDone, State.chipEdge, clockChange, h]
  · simp [State.pinDone, State.chipEdge, clockChange, State.shiftRise, h, hc]

/-- A rising edge of the shift clock with `DATA` at `Unknown`. -/
theorem State.pinDone_shiftHi_anyBit {s : State} (h : s.wires.shift = .lo) (hc : s.wires.clr = .hi)
    (hd : s.wires.data = .unknown) :
    (s.pinDone .shift .hi).sr = shiftIn s.cfg.chipDepth (Config.freeBit s.draws 0) s.sr
      ∧ (s.pinDone .shift .hi).draws = s.draws + 1 := by
  simp [State.pinDone, State.chipEdge, clockChange, State.shiftRise, State.shiftData, h, hc, hd]

/-- Maybe a rising edge of the latch clock. -/
theorem State.pinDone_latchHi_maybe {s : State} (h : s.wires.latch = .unknown) :
    (s.pinDone .latch .hi).out = (if Config.freeBit s.draws 0 then s.sr else s.out)
      ∧ (s.pinDone .latch .hi).draws = s.draws + 1 := by
  simp only [State.pinDone, State.chipEdge, clockChange, Wires.get_latch, h]
  exact ⟨rfl, rfl⟩

/-! The chip after a micro-operation is what the pin operation made of it -/

/-- The advance leaves the chip, and gives no draw back (R174). -/
theorem State.advance_chip (s : State) :
    s.advance.sr = s.sr ∧ s.advance.out = s.out ∧ s.draws ≤ s.advance.draws :=
  State.advance_induction (P := fun t => t.sr = s.sr ∧ t.out = s.out ∧ s.draws ≤ t.draws)
    ⟨rfl, rfl, le_rfl⟩ ⟨rfl, rfl, Nat.le_succ _⟩

/-- A pin operation as a micro-operation, answered `ok` (R130). -/
theorem exec_ofPin_chip {s : State} (ha : s.answer = .ok) (l : Line) (v : Level) :
    ∃ t, exec (Instr.ofPin l v) s = .next t ∧ t.sr = (s.pinDone l v).sr
      ∧ t.out = (s.pinDone l v).out ∧ (s.pinDone l v).draws ≤ t.draws := by
  have hexec : exec (Instr.ofPin l v) s = .next (s.pinDone l v).advance := by
    rw [exec_ofPin, State.pin_ok ha]
  exact ⟨_, hexec, (s.pinDone l v).advance_chip⟩

/-- One whose pin operation leaves the chip leaves it. -/
theorem exec_ofPin_leaves_chip {s : State} (ha : s.answer = .ok) {l : Line} {v : Level}
    (hsr : (s.pinDone l v).sr = s.sr) (hout : (s.pinDone l v).out = s.out) :
    ∃ t, exec (Instr.ofPin l v) s = .next t ∧ t.sr = s.sr ∧ t.out = s.out := by
  obtain ⟨t, hexec, htsr, htout, -⟩ := exec_ofPin_chip ha l v
  exact ⟨t, hexec, htsr.trans hsr, htout.trans hout⟩

/-- Settles O19: the edge is one `shiftIn` of the bit on `DATA`, read stage by stage. -/
theorem shiftClockLoadsBit : Obligations.ShiftClockLoadsBit := by
  intro s d hsized ha hshift hclr hdata
  obtain ⟨hdepth, -⟩ := hsized
  obtain ⟨t, hexec, hsr, hout, -⟩ := exec_ofPin_chip ha .shift .hi
  rw [State.pinDone_shiftHi_shift hshift hclr hdata] at hsr
  refine ⟨t, hexec, hout.trans (s.pinDone_shift_out .hi), ?_⟩
  rw [hsr]
  exact ⟨shiftIn_length _ hdepth, fun _ => shiftIn_getElem?_succ _ _, shiftIn_getElem?_zero _ _⟩

/-- Settles O20: part a of R234 is the clear line's own operation, part b the shift edge under clear. -/
theorem clearEmptiesShiftRegister : Obligations.ClearEmptiesShiftRegister := by
  refine ⟨fun s ha => ?_, fun s ha hshift hclr => ?_⟩
  · obtain ⟨t, hexec, hsr, hout, -⟩ := exec_ofPin_chip ha .clr .lo
    exact ⟨t, hexec, hout.trans s.pinDone_clrLo_out, hsr.trans s.pinDone_clrLo_sr⟩
  · obtain ⟨t, hexec, hsr, hout, -⟩ := exec_ofPin_chip ha .shift .hi
    exact ⟨t, hexec, hout.trans (s.pinDone_shift_out .hi),
      hsr.trans (State.pinDone_shiftHi_clear hshift hclr)⟩

/-- Settles O21, by what the latch edge does to either register. -/
theorem latchClockCopiesRegister : Obligations.LatchClockCopiesRegister := by
  intro s ha hlatch
  obtain ⟨t, hexec, hsr, hout, -⟩ := exec_ofPin_chip ha .latch .hi
  exact ⟨t, hexec, hout.trans (State.pinDone_latchHi_rise hlatch), hsr.trans (s.pinDone_latch_sr .hi)⟩

/-- Settles O22, by the three undecided edges. -/
theorem unknownLevelsStayOpen : Obligations.UnknownLevelsStayOpen := by
  intro s hsized ha
  obtain ⟨hdepth, -⟩ := hsized
  obtain ⟨t, hexec, hsr, hout, hdraws⟩ := exec_ofPin_chip ha .shift .hi
  rw [State.pinDone_shift_out] at hout
  refine ⟨fun hmaybe => ?_, fun hshift hclr hdata => ?_, fun hlatch => ?_⟩
  · obtain ⟨hany, hused⟩ := State.pinDone_shiftHi_any hmaybe
    rw [hany] at hsr
    rw [hused] at hdraws
    exact ⟨t, hexec, hout, by rw [hsr, freeStages_length], hsr, hdraws⟩
  · obtain ⟨hbit, hused⟩ := State.pinDone_shiftHi_anyBit hshift hclr hdata
    rw [hused] at hdraws
    refine ⟨t, hexec, hout, ?_⟩
    rw [hsr, hbit]
    exact ⟨shiftIn_length _ hdepth, fun _ => shiftIn_getElem?_succ _ _, shiftIn_getElem?_zero _ _, hdraws⟩
  · obtain ⟨u, hexec, hsr, hout, hdraws⟩ := exec_ofPin_chip ha .latch .hi
    obtain ⟨hchoice, hused⟩ := State.pinDone_latchHi_maybe hlatch
    rw [hused] at hdraws
    exact ⟨u, hexec, hsr.trans (s.pinDone_latch_sr .hi), hout.trans hchoice, hdraws⟩

/-- Settles O23, operation by operation. -/
theorem otherChangesLeaveChip : Obligations.OtherChangesLeaveChip := by
  intro s ha
  refine ⟨fun i hi => ?_, fun hshift => ?_, fun hlatch => ?_⟩
  · simp only [List.mem_cons, List.not_mem_nil, or_false] at hi
    rcases hi with rfl | rfl | rfl | rfl | rfl
    · exact exec_ofPin_leaves_chip ha s.pinDone_clrHi_sr s.pinDone_clrHi_out
    · exact exec_ofPin_leaves_chip ha s.pinDone_shiftLo_sr s.pinDone_shiftLo_out
    · exact exec_ofPin_leaves_chip ha s.pinDone_latchLo_sr s.pinDone_latchLo_out
    · exact exec_ofPin_leaves_chip ha (s.pinDone_data_sr .lo) (s.pinDone_data_out .lo)
    · exact exec_ofPin_leaves_chip ha (s.pinDone_data_sr .hi) (s.pinDone_data_out .hi)
  · exact exec_ofPin_leaves_chip ha (State.pinDone_shiftHi_same hshift) (s.pinDone_shift_out .hi)
  · exact exec_ofPin_leaves_chip ha (s.pinDone_latch_sr .hi) (State.pinDone_latchHi_same hlatch)

/-- Settles O25: each move is its own operation on the state without the move. -/
theorem hostMovesBetweenCalls : Obligations.HostMovesBetweenCalls := by
  intro s rest h
  refine ⟨step_of_move h, fun n => step_of_move h, fun w hh => ?_, fun hh => ?_⟩
  · exact ⟨_, step_of_move h hh, rfl, rfl, rfl, freeStages_length _ _, freeStages_length _ _, rfl, rfl, rfl⟩
  · have hwires : ∀ l : Line, (State.resetEvent { s with host := rest }).wires.get l = .unknown := by
      intro l; cases l <;> rfl
    exact ⟨_, step_of_move h hh, rfl, hwires, rfl, rfl, freeStages_length _ _, freeStages_length _ _,
      rfl, rfl⟩

end Sys2Proof.Machine
end

section
/-!
PROOFS. The two clear modes side by side (R236): each operation on a machine whose chip clears on the level
carries over to its twin whose chip clears on the edge.
-/

namespace Sys2Proof.Machine

/-- The same machine with a chip that clears on the edge and holds `sr`. -/
def State.edgeTwin (s : State) (sr : List Bool) : State :=
  { s with cfg := { s.cfg with clearMode := .edge }, sr := sr }

/-- `t` is the twin of `s`, with the same shift register but at `S2B`. -/
def EdgeTwins (s t : State) : Prop :=
  ∃ sr, t = s.edgeTwin sr ∧ (s.xp.phase ≠ .s2b → sr = s.sr)

theorem modesAgree_iff {s t : State} :
    ModesAgree s t ↔ s.cfg.clearMode = .level ∧ EdgeTwins s t ∧ s.OnCourse := by
  constructor
  · rintro ⟨hlevel, ht, hsr, hcourse⟩
    exact ⟨hlevel, ⟨_, ht, hsr⟩, hcourse⟩
  · rintro ⟨hlevel, ⟨_, rfl, hsr⟩, hcourse⟩
    exact ⟨hlevel, rfl, hsr, hcourse⟩

theorem edgeTwins_same_sr (s : State) : EdgeTwins s (s.edgeTwin s.sr) := ⟨_, rfl, fun _ => rfl⟩

/-! What the twin's chip makes of a line's change -/

section Chip
variable (s : State) (sr : List Bool) {l : Line} (old : WireLevel) {v : Level}

/-- A rising edge of the shift clock reads the clear and the data line and no `CLEAR_MODE` (R233, R234 part b,
R237). -/
theorem State.edgeTwin_shiftRise :
    (s.edgeTwin s.sr).shiftRise = s.shiftRise.edgeTwin s.shiftRise.sr := by
  cases hclr : s.wires.clr <;> cases hdata : s.wires.data <;>
    simp only [State.shiftRise, State.shiftData, State.edgeTwin, hclr, hdata] <;> rfl

/-- Only the clear line driven low reads `CLEAR_MODE` (R232, R234). -/
theorem State.edgeTwin_chipEdge (h : ¬(l = .clr ∧ v = .lo)) :
    (s.edgeTwin s.sr).chipEdge l old v = (s.chipEdge l old v).edgeTwin (s.chipEdge l old v).sr := by
  cases l with
  | clr =>
    cases v with
    | lo => exact absurd ⟨rfl, rfl⟩ h
    | hi => rfl
  | data => rfl
  | shift =>
    simp only [State.chipEdge]
    cases clockChange old v with
    | rising => exact s.edgeTwin_shiftRise
    | maybeRising | none => rfl
  | latch =>
    simp only [State.chipEdge]
    cases clockChange old v <;> rfl

/-- A chip that clears on the edge keeps its register when the clear line goes low (R234 part a). -/
theorem State.edgeTwin_chipEdge_clrLo :
    (s.edgeTwin s.sr).chipEdge .clr old .lo = (s.chipEdge .clr old .lo).edgeTwin s.sr := by
  change s.edgeTwin s.sr = (s.clearDriven .lo).edgeTwin s.sr
  cases hmode : s.cfg.clearMode with
  | level => simp only [State.clearDriven, hmode]; rfl
  | edge => simp only [State.clearDriven, hmode]

/-- The shift edge under clear empties the register whatever it held (R234 part b). -/
theorem State.edgeTwin_chipEdge_clear (hclr : s.wires.clr = .lo) :
    (s.edgeTwin sr).chipEdge .shift .lo .hi =
      (s.chipEdge .shift .lo .hi).edgeTwin (s.chipEdge .shift .lo .hi).sr := by
  simp only [State.chipEdge, clockChange, State.shiftRise, State.edgeTwin, hclr]
  rfl

end Chip

/-! A step of the twin -/

section Step
variable {s t : State} {l : Line} {v : Level}

/-- The one phase that drives the clear line low is followed by `S2B` (R154). -/
theorem nextPoint_of_clrLo {data : List Byte} {x : ExecPoint} (hp : phasePin data x = some (.clr, .lo)) :
    (nextPoint data.length x).phase = .s2b := by
  cases hx : x.phase
  case s2a => simp only [nextPoint, hx]
  all_goals simp [phasePin, hx] at hp

/-- The state in which the chip sees the change that a pin operation makes (R130). -/
def State.beforeEdge (s : State) (l : Line) (v : Level) : State :=
  (s.takeAnswer.setWire l (Level.onWire v)).record (.pin l v .ok)

theorem State.afterPin_eq (s : State) (l : Line) (v : Level) :
    s.afterPin l v =
      ((s.beforeEdge l v).chipEdge l (s.wires.get l) v).goto (nextPoint s.data.length s.xp) := rfl

/-- A pin operation does the same to both but for the chip. -/
theorem State.edgeTwin_afterPin {sr sr' : List Bool}
    (h : ((s.beforeEdge l v).edgeTwin sr).chipEdge l (s.wires.get l) v =
      ((s.beforeEdge l v).chipEdge l (s.wires.get l) v).edgeTwin sr') :
    (s.edgeTwin sr).afterPin l v = (s.afterPin l v).edgeTwin sr' := by
  rw [State.afterPin_eq, State.afterPin_eq]
  exact congrArg (State.goto · (nextPoint s.data.length s.xp)) h

/-- `S2A` may part the two shift registers, and `S2B` brings them together again (R236). -/
theorem EdgeTwins.afterPin (h : EdgeTwins s t) (hw : s.WiresOnCourse)
    (hp : phasePin s.data s.xp = some (l, v)) : EdgeTwins (s.afterPin l v) (t.afterPin l v) := by
  obtain ⟨sr, rfl, hsr⟩ := h
  by_cases h2b : s.xp.phase = .s2b
  · obtain ⟨rfl, rfl⟩ : Line.shift = l ∧ Level.hi = v := by simpa [phasePin, h2b] using hp
    simp only [State.WiresOnCourse, h2b] at hw
    obtain ⟨hclr, hshift, -⟩ := hw
    have hclear := (s.beforeEdge .shift .hi).edgeTwin_chipEdge_clear sr hclr
    rw [← hshift] at hclear
    exact ⟨_, State.edgeTwin_afterPin hclear, fun _ => rfl⟩
  · obtain rfl := hsr h2b
    by_cases hlow : l = .clr ∧ v = .lo
    · obtain ⟨rfl, rfl⟩ := hlow
      have hkept := (s.beforeEdge .clr .lo).edgeTwin_chipEdge_clrLo (s.wires.get .clr)
      exact ⟨_, State.edgeTwin_afterPin hkept, fun hne => absurd (nextPoint_of_clrLo hp) hne⟩
    · have hsame := (s.beforeEdge l v).edgeTwin_chipEdge (s.wires.get l) hlow
      exact ⟨_, State.edgeTwin_afterPin hsame, fun _ => rfl⟩

/-- A step of a call: a failed operation draws the same registers for both (R200; log 5), and no wait is at
`S2B`. -/
theorem EdgeTwins.step_busy (h : EdgeTwins s t) (hl : s.PointLegal) (hw : s.WiresOnCourse)
    (hb : s.xp.phase ≠ .idle) {s' : State} (hs : step s = .next s') :
    ∃ t', step t = .next t' ∧ EdgeTwins s' t' := by
  have ⟨sr, ht, hsr⟩ := h
  subst ht
  rcases hl.busy_cases hb with ⟨l, v, hp, ha | ⟨e, ha⟩⟩ | hwait | h4
  · rw [step_of_pin_ok hp ha] at hs
    cases hs
    exact ⟨_, step_of_pin_ok hp ha, h.afterPin hw hp⟩
  · rw [step_of_pin_err hp ha] at hs
    cases hs
    exact ⟨_, step_of_pin_err hp ha, edgeTwins_same_sr (s.pinFailed l v e)⟩
  · have h2b : s.xp.phase ≠ .s2b := fun h2b => by
      obtain ⟨-, hnone, -⟩ := hwait
      simp [phasePin, h2b] at hnone
    obtain rfl := hsr h2b
    rw [step_of_atWait hwait] at hs
    cases hs
    exact ⟨_, step_of_atWait hwait, edgeTwins_same_sr s.afterWait⟩
  · obtain rfl := hsr (by simp [h4])
    rw [step_of_s4c h4] at hs
    cases hs
    exact ⟨_, step_of_s4c h4, edgeTwins_same_sr ((s.record (.wait delayUnit)).respond .ok)⟩

/-- A command that the platform offers starts its call: the converse of `step_idle_next_cases`. -/
theorem step_of_offered_command {w : CommandWord} {variant : Variant} {frame : List Byte}
    {rest : List HostMove} (hi : s.xp.phase = .idle) (hh : s.host = .command w frame :: rest)
    (hv : w = 0#1 ∧ variant = .shiftOut
      ∨ w ≠ 0#1 ∧ s.cfg.errs.isEmpty = true ∧ variant = .infallible) :
    step s = .next (State.startCall { s with host := rest } variant frame) := by
  rw [step_of_command hi hh]
  rcases hv with ⟨hw, rfl⟩ | ⟨hw, hempty, rfl⟩
  · rw [if_pos hw]
  · rw [if_neg hw, if_pos hempty]

/-- The host's other moves read neither the shift register nor `CLEAR_MODE` (R245; log 5). -/
theorem State.edgeTwin_onHostMove {s' : State} {m : HostMove} (hm : s.onHostMove m = .moved s') :
    (s.edgeTwin s.sr).onHostMove m = .moved (s'.edgeTwin s'.sr) := by
  cases m with
  | command w frame => cases hm
  | receive | drive | useDelay | reset => cases hm; rfl

/-- A step from `IDLE`: the host's next move is the same. -/
theorem EdgeTwins.step_idle (h : EdgeTwins s t) (hi : s.xp.phase = .idle) {s' : State}
    (hs : step s = .next s') : ∃ t', step t = .next t' ∧ EdgeTwins s' t' := by
  obtain ⟨sr, rfl, hsr⟩ := h
  obtain rfl := hsr (by simp [hi])
  rcases step_idle_next_cases hi hs with
    ⟨hh, rfl⟩ | ⟨w, frame, rest, variant, hh, hv, rfl⟩ | ⟨m, rest, hh, hm⟩
  · exact ⟨_, step_of_idle hi hh, edgeTwins_same_sr s'⟩
  · exact ⟨_, step_of_offered_command hi hh hv, edgeTwins_same_sr _⟩
  · have hm' : State.onHostMove { s.edgeTwin s.sr with host := rest } m = .moved (s'.edgeTwin s'.sr) :=
      State.edgeTwin_onHostMove hm
    have hstep : step (s.edgeTwin s.sr) = .next (s'.edgeTwin s'.sr) := by
      rw [step_of_move (s := s.edgeTwin s.sr) hi hh, hm']
    exact ⟨_, hstep, edgeTwins_same_sr s'⟩

end Step

/-- Settles O37: the clear modes and the course are invariants of their own (ParametersNeverChange,
OnCourseIsInvariant), and a step keeps twins twins. -/
theorem clearModesAgree : Obligations.ClearModesAgree := by
  intro s t s' hlegal hagree hs
  obtain ⟨hlevel, htwins, hcourse⟩ := modesAgree_iff.mp hagree
  have hlevel' : s'.cfg.clearMode = .level := by rwa [parametersNeverChange s s' hs]
  have hcourse' : s'.OnCourse := onCourseIsInvariant s s' hlegal hcourse hs
  obtain ⟨-, hwires, -⟩ := hcourse
  have hstep : ∃ t', step t = .next t' ∧ EdgeTwins s' t' := by
    by_cases hi : s.xp.phase = .idle
    · exact htwins.step_idle hi hs
    · exact htwins.step_busy hlegal.pointLegal hwires hi hs
  obtain ⟨t', ht, htwins'⟩ := hstep
  exact ⟨t', ht, modesAgree_iff.mpr ⟨hlevel', htwins', hcourse'⟩⟩

end Sys2Proof.Machine
end

section
/-!
PROOFS. The parallel outputs in a call (R268): only a rising latch edge reaches the output register, and only
`S4B` drives the latch high.
-/

namespace Sys2Proof.Machine

/-- An operation answered `ok` reaches the output register only by driving the latch high (R232, R235). -/
theorem State.pinDone_out_of_not_latchHi {l : Line} {v : Level} (s : State) (h : ¬(l = .latch ∧ v = .hi)) :
    (s.pinDone l v).out = s.out := by
  cases l with
  | clr =>
    cases v with
    | lo => exact s.pinDone_clrLo_out
    | hi => exact s.pinDone_clrHi_out
  | shift => exact s.pinDone_shift_out v
  | data => exact s.pinDone_data_out v
  | latch =>
    cases v with
    | lo => exact s.pinDone_latchLo_out
    | hi => exact absurd ⟨rfl, rfl⟩ h

/-- The one phase that drives the latch high (R167). -/
theorem phase_eq_s4b_of_latchHi {data : List Byte} {x : ExecPoint}
    (hp : phasePin data x = some (.latch, .hi)) : x.phase = .s4b := by
  cases hx : x.phase
  case s4b => rfl
  all_goals simp [phasePin, hx] at hp

/-- Settles O39, by what a step of a call can be and, for a pin operation, by its answer. -/
theorem outputsChangeAtLatchOnly : Obligations.OutputsChangeAtLatchOnly := by
  intro s t h hs hout
  rcases step_busy_cases h with ⟨l, v, hp, -, hpin⟩ | ⟨-, -, -, hwait⟩ | ⟨-, hend⟩ | ⟨-, -, hstop⟩
  · rw [hpin] at hs
    cases hs
    cases ha : s.answer with
    | ok =>
      left
      rw [State.pin_ok ha] at hout
      by_cases hlatch : l = .latch ∧ v = .hi
      · obtain ⟨rfl, rfl⟩ := hlatch
        exact phase_eq_s4b_of_latchHi hp
      · exact absurd (s.pinDone_out_of_not_latchHi hlatch) hout
    | err e =>
      right
      rw [State.pin_err ha]
      exact ⟨e, rfl, callAnswered_pinFailed s l v e⟩
  · rw [hwait] at hs
    cases hs
    exact absurd rfl hout
  · rw [hend] at hs
    cases hs
    exact absurd rfl hout
  · rw [hstop] at hs
    cases hs

end Sys2Proof.Machine
end
